-- ==== Sys2Proof/Word.lean ====
section
/-! DEFINITION. Word.lean: the packed words, the pixel position and the plain records of the compositor
(spec/10_state.md rules R21, R24, R27 to R33; spec/30_encoding.md rules R60 to R67). Data only: what is done with it stands
in Decode.lean and Machine/. -/

namespace Sys2Proof

/-- A packed word: every one is 32 bits (R60, `92_eei_decisions.md` D2). -/
abbrev Word32 := BitVec 32

/-- A screen number, 0 or 1 (R24). -/
abbrev Screen := Fin 2

/-- A row of one screen, 0 to 191 (R24). -/
abbrev Row := Fin 192

/-- A column, 0 to 255 (R24). -/
abbrev Col := Fin 256

/-- The pixel position `pc = (s, r, x)` (R24). -/
structure Pos where
  screen : Screen
  row : Row
  col : Col
  deriving DecidableEq, Repr

/-- A colour as the packed words hold it: three 6-bit channels (R62, R65). -/
structure RawColor where
  r : BitVec 6
  g : BitVec 6
  b : BitVec 6
  deriving DecidableEq, Repr

/-- The decoded layer word, the type of the latches `LT` and `LB` (R62). -/
structure LayerPixel where
  color : RawColor
  is3dSourced : Bool
  alphaBlendEnabled : Bool
  usesPerPixelCoefficient : Bool
  perPixelCoefficient : BitVec 4
  targetMask : BitVec 6
  deriving DecidableEq, Repr

/-- The decoded 3D word, the type of the latch `P3` (R65). -/
structure Pixel3D where
  color : RawColor
  alpha : BitVec 5
  deriving DecidableEq, Repr

/-- `master_brightness_mode` (R29): three values, no fourth. -/
inductive MasterMode where
  | none | up | down
  deriving DecidableEq, Repr

/-- `effect_select` (R30): four values. -/
inductive Effect where
  | none | alphaBlend | brightnessUp | brightnessDown
  deriving DecidableEq, Repr

/-- A `ScanlineBlendConfig` record, format `CFGREC` (R27 to R33, R66). The factor is a natural number, declared 0 to 31 and
never masked (R28). -/
structure CfgRec where
  masterBrightnessFactor : Nat
  masterBrightnessMode : MasterMode
  effectSelect : Effect
  target1Mask : BitVec 6
  target2Mask : BitVec 6
  blendCoeffA : BitVec 5
  blendCoeffB : BitVec 5
  deriving DecidableEq, Repr

/-- A record as a packed interface presents it, its two enumerations as numeric codes (R66, D7). -/
structure CfgCodes where
  masterBrightnessFactor : Nat
  masterBrightnessMode : BitVec 2
  effectSelect : BitVec 2
  target1Mask : BitVec 6
  target2Mask : BitVec 6
  blendCoeffA : BitVec 5
  blendCoeffB : BitVec 5
  deriving DecidableEq, Repr

/-- A `Color`: a triple of exact rationals (R11). -/
structure Color where
  c0 : Rat
  c1 : Rat
  c2 : Rat
  deriving DecidableEq, Repr

/-- An output element `(r, g, b, a)`, format `OUTEL` (R67). -/
structure OutEl where
  r : Rat
  g : Rat
  b : Rat
  a : Rat
  deriving DecidableEq, Repr

/-- An output element as a consumer that needs integers holds it (R67, D12). -/
structure IntEl where
  r : Int
  g : Int
  b : Int
  a : Int
  deriving DecidableEq, Repr

end Sys2Proof
end

