-- ==== Sys2Proof/Config.lean ====
section
/-! DEFINITION. Config.lean: what the source fixes (spec/00_scope.md rule R6) and the shape of the open parameters of rule R7.
`LAYER_LAYOUT` (`92_eei_decisions.md` D4), which the decoder reads, and SCREEN_3D, the frame's argument, stand in the state
(State.layout, State.screen3d). NUM (D1), OUT_FORMAT (D12) and TM_MEANING (D21) are read by no rule, so no step takes them: they are
types here, arguments of the definitions of Machine/Parameters.lean, and the machine's own are constants with no body, of which
nothing can be proved (log 3, log 24). No value of an accepted frame is left open by the spec: the step takes no free value. -/

namespace Sys2Proof.Config

/-- `SCREENS` (R6). -/
def screens : Nat := 2
/-- `ROWS` (R6). -/
def rows : Nat := 192
/-- `COLS` (R6). -/
def cols : Nat := 256
/-- `OUT_ROWS = SCREENS * ROWS` (R6). -/
def outRows : Nat := 384
/-- `CFG_RECORDS = ROWS * SCREENS` (R6). -/
def cfgRecords : Nat := 384
/-- `PIXELS = SCREENS * ROWS * COLS` (R6). -/
def pixels : Nat := 98304
/-- `G3D_ROWS * G3D_COLS` (R6, D10). -/
def g3dElements : Nat := 49152
/-- `CH_DIV` (R6): channel value v means v/63. -/
def chDiv : Nat := 63
/-- `COEFF_DIV` (R6): divisor of the coefficients and of the brightness factor. -/
def coeffDiv : Nat := 16
/-- `ALPHA3D_DIV` (R6): divisor of the 3D alpha (C1). -/
def alpha3dDiv : Nat := 31
/-- `COEFF_MAX` (R6): the largest declared factor. -/
def coeffMax : Nat := 31

/-- `LAYER_LAYOUT` (R7, R61, D4): the lowest bit of each field of a layer word above the colour field: `k` (4 bits), the flags
`d`, `a`, `p` (one bit each), `m` (6 bits). -/
structure LayerLayout where
  k : Nat
  d : Nat
  a : Nat
  p : Nat
  m : Nat
  deriving DecidableEq, Repr

/-- The bits each field of a layout takes up. -/
def LayerLayout.bits (L : LayerLayout) : List Nat :=
  [L.k, L.k + 1, L.k + 2, L.k + 3, L.d, L.a, L.p, L.m, L.m + 1, L.m + 2, L.m + 3, L.m + 4, L.m + 5]

/-- "any injective placement above bit 17 serves" (D4): no two fields share a bit, none lies in the colour field or past
bit 31. -/
abbrev LayerLayout.Wf (L : LayerLayout) : Prop :=
  L.bits.Nodup ∧ ∀ b ∈ L.bits, 18 ≤ b ∧ b < 32

/-- A value of the open argument `NUM` (R7, D1, U8): a realisation of the pipeline's arithmetic in some number format, with its
rounding and its evaluation order. Each field is one channel function of the pipeline, its numbers given as the rationals they
stand for. No rule limits them (log 3). -/
structure Num where
  /-- a 6-bit channel: in the exact number system `v / 63` (R68) -/
  channel : BitVec 6 → Rat
  /-- a coefficient or a factor: `n / 16` (R68) -/
  coeff : Nat → Rat
  /-- the 3D alpha: `alpha / 31` (R68) -/
  alpha : BitVec 5 → Rat
  /-- the second weight of a blend with one coefficient: `1 - c` (R104, R105) -/
  complement : Rat → Rat
  /-- `blend` on the channels `a`, `b` with the weights `cA`, `cB` (R101) -/
  blend : Rat → Rat → Rat → Rat → Rat
  /-- `up` by a factor, on a channel (R112) -/
  up : Rat → Rat → Rat
  /-- `down` by a factor, on a channel (R112) -/
  down : Rat → Rat → Rat

/-- `NUM`: the floating-point realisation, if any; the rules' own numbers are exact rationals (R7, D1). Open. -/
opaque num : Option Num

/-- A value of the open argument `OUT_FORMAT` (R7, R67, D12): the integer quantisation of an output element, if any. -/
abbrev OutFormat := Option (OutEl → IntEl)

/-- `OUT_FORMAT` of the consumer that reads the output (R67). Open. -/
opaque outFormat : OutFormat

/-- A value of the open argument `TM_MEANING` (R7, R31, D21): which of the six candidate source layers each of the six bits of a
target mask stands for, "one bit per candidate source layer". The layers are numbered 0 to 5, for want of names in the source. -/
abbrev TmMeaning := Equiv.Perm (Fin 6)

/-- `TM_MEANING`, which the producer and `REGEMU` share (D21). Open. -/
opaque tmMeaning : TmMeaning

end Sys2Proof.Config
end

