-- ==== Sys2Proof/Machine/Operands.lean ====
section
/-! DEFINITION. Machine/Operands.lean: fields into numbers (spec/30_encoding.md rule R68) and the arithmetic of the pipeline
(spec/00_scope.md rule R11; spec/42_resolve.md rules R101, R112, R113). All of it is exact rational arithmetic, no rounding
(`92_eei_decisions.md` D1). -/

namespace Sys2Proof.Machine

/-- `norm6(v) = v / 63` (R12, R68, R81). -/
def norm6 (v : BitVec 6) : Rat := (v.toNat : Rat) / (Config.chDiv : Rat)

/-- `norm6c`: the three channels of a colour (R12). -/
def norm6c (c : RawColor) : Color := { c0 := norm6 c.r, c1 := norm6 c.g, c2 := norm6 c.b }

/-- A raw coefficient over 16: `cA`, `cB`, `cP` and the brightness factor `f` (R68). The value is not masked (R28). -/
def coeff16 (n : Nat) : Rat := (n : Rat) / (Config.coeffDiv : Rat)

/-- The 3D alpha coefficient `a3 = alpha / 31` (R68, C1). -/
def coeffAlpha (alpha : BitVec 5) : Rat := (alpha.toNat : Rat) / (Config.alpha3dDiv : Rat)

/-- `clamp01` (R11). -/
def clamp01 (v : Rat) : Rat := if v < 0 then 0 else if 1 < v then 1 else v

/-- A function on one channel, applied to each channel independently (R11). -/
def mapColor (f : Rat → Rat) (c : Color) : Color := { c0 := f c.c0, c1 := f c.c1, c2 := f c.c2 }

/-- `BLACK` (R11). -/
def black : Color := { c0 := 0, c1 := 0, c2 := 0 }

/-- One channel of `blend`: the sum is exact, the clamp acts once, on the sum (R101). -/
def blendChannel (a b cA cB : Rat) : Rat := clamp01 (a * cA + b * cB)

/-- `blend(a, b, cA, cB)` (R101). -/
def blend (a b : Color) (cA cB : Rat) : Color :=
  { c0 := blendChannel a.c0 b.c0 cA cB, c1 := blendChannel a.c1 b.c1 cA cB, c2 := blendChannel a.c2 b.c2 cA cB }

/-- `up(c, f) = clamp01(c + (1 - c) * f)` (R112). -/
def upChannel (f c : Rat) : Rat := clamp01 (c + (1 - c) * f)

/-- `down(c, f) = clamp01(c - c * f)` (R112). -/
def downChannel (f c : Rat) : Rat := clamp01 (c - c * f)

/-- `up` on a colour (R112). -/
def up (c : Color) (f : Rat) : Color := mapColor (upChannel f) c

/-- `down` on a colour (R112). -/
def down (c : Color) (f : Rat) : Color := mapColor (downChannel f) c

/-- A colour as an output element: opacity 1, always (R67, R124). -/
def opaqueEl (c : Color) : OutEl := { r := c.c0, g := c.c1, b := c.c2, a := 1 }

end Sys2Proof.Machine
end

