-- ==== Sys2Proof/Syntax.lean ====
section
/-! DEFINITION. Syntax.lean: the operations of the compositor, one constructor per row of spec/opcode_table.json
(spec/00_scope.md rule R9). A stage operation has no operand of its own: it reads and writes the latches of the current
invocation (spec/10_state.md rule R21). RES.FXNONE, RES.FXAPASS, RES.FXUP and RES.FXDOWN have two rows each (R71): the
constructor with the plain name is the row with M2 = 0, the one that ends in M2 the row with M2 = 1. -/

namespace Sys2Proof

inductive Instr where
  /-- DEC.LT (R82) -/
  | decLt
  /-- DEC.LB (R83) -/
  | decLb
  /-- DEC.P3 (R84) -/
  | decP3
  /-- SUBT.KEEP (R91) -/
  | subtKeep
  /-- SUBT.3D (R92) -/
  | subt3d
  /-- SUBT.FALL (R93) -/
  | subtFall
  /-- SUBB.KEEP (R94) -/
  | subbKeep
  /-- SUBB.3D (R95) -/
  | subb3d
  /-- SUBB.BLACK (R96) -/
  | subbBlack
  /-- RES.B3D (R104) -/
  | resB3d
  /-- RES.BPP (R105) -/
  | resBpp
  /-- RES.BGL (R106) -/
  | resBgl
  /-- RES.FXNONE, row `xxxx000` (R107) -/
  | resFxnone
  /-- RES.FXNONE, row `00xx100` (R107) -/
  | resFxnoneM2
  /-- RES.FXALPHA (R108) -/
  | resFxalpha
  /-- RES.FXAPASS, row `xxxx001` (R109) -/
  | resFxapass
  /-- RES.FXAPASS, row `00x0101` (R109) -/
  | resFxapassM2
  /-- RES.FXUP, row `xxxx010` (R110) -/
  | resFxup
  /-- RES.FXUP, row `00xx110` (R110) -/
  | resFxupM2
  /-- RES.FXDOWN, row `xxxx011` (R111) -/
  | resFxdown
  /-- RES.FXDOWN, row `00xx111` (R111) -/
  | resFxdownM2
  /-- MB.NONE (R121) -/
  | mbNone
  /-- MB.UP (R122) -/
  | mbUp
  /-- MB.DOWN (R123) -/
  | mbDown
  /-- PIXEL at the position `(s, r, x)` (R24, R131) -/
  | pixel (screen row col : Nat)
  /-- FRAME with the argument `SCREEN_3D` (R134) -/
  | frame (screen3d : Nat)
  deriving DecidableEq, Repr

end Sys2Proof
end

