-- ==== Sys2Proof/WellFormed.lean ====
section
/-! DEFINITION. WellFormed.lean: which operands name something that exists. Only PIXEL and FRAME have operands: a position
`s` in 0 to 1, `r` in 0 to 191, `x` in 0 to 255 (spec/10_state.md rule R24), and `SCREEN_3D` in 0 to 1
(spec/20_memory.md rule R42). -/

namespace Sys2Proof

def Instr.wellFormed : Instr → Bool
  | .pixel screen row col =>
    decide (screen < Config.screens) && decide (row < Config.rows) && decide (col < Config.cols)
  | .frame screen3d => decide (screen3d < Config.screens)
  | .decLt | .decLb | .decP3 => true
  | .subtKeep | .subt3d | .subtFall | .subbKeep | .subb3d | .subbBlack => true
  | .resB3d | .resBpp | .resBgl | .resFxnone | .resFxnoneM2 | .resFxalpha | .resFxapass | .resFxapassM2 => true
  | .resFxup | .resFxupM2 | .resFxdown | .resFxdownM2 => true
  | .mbNone | .mbUp | .mbDown => true

end Sys2Proof
end

