-- ==== Sys2Proof/Decode.lean ====
section
/-! DEFINITION. Decode.lean: every bit of spec/30_encoding.md. First the packed pixel words and their inverse (rules R61,
R64, R86), then the numeric codes of the two enumerations (R66, D7), then the selection table: the keys of rules R69, R70,
R72 against the 26 rows of spec/opcode_table.json, the encoder written from the same rows, and the host's reading of a
table word. -/

namespace Sys2Proof

/-! ## Packed pixel words -/

/-- The colour field, bits 17:0: red 5:0, green 11:6, blue 17:12 (R61, R64, D3). -/
def decodeColor (w : Word32) : RawColor :=
  { r := w.extractLsb' 0 6, g := w.extractLsb' 6 6, b := w.extractLsb' 12 6 }

/-- The default `LAYER_LAYOUT` (R61, D4): `k` 21:18, bit 22 ignored, `d` 23, `a` 24, `p` 25, `m` 31:26. -/
def defaultLayout : Config.LayerLayout := { k := 18, d := 23, a := 24, p := 25, m := 26 }

/-- A layer word decoded under a layout (R61, R62, R82). Total: no word is illegal (R74). -/
def decodeLayer (L : Config.LayerLayout) (w : Word32) : LayerPixel :=
  { color := decodeColor w
    perPixelCoefficient := w.extractLsb' L.k 4
    is3dSourced := w.getLsbD L.d
    alphaBlendEnabled := w.getLsbD L.a
    usesPerPixelCoefficient := w.getLsbD L.p
    targetMask := w.extractLsb' L.m 6 }

/-- A 3D word decoded (R64, R65, R84). Total (R74). -/
def decodeP3d (w : Word32) : Pixel3D :=
  { color := decodeColor w, alpha := w.extractLsb' 18 5 }

/-- The colour field of a word (R86). -/
def encodeColor (c : RawColor) : Word32 :=
  c.r.setWidth 32 ||| c.g.setWidth 32 <<< 6 ||| c.b.setWidth 32 <<< 12

/-- One flag as bit `n` of a word. -/
def flagBit (b : Bool) (n : Nat) : Word32 :=
  (BitVec.ofBool b).setWidth 32 <<< n

/-- `r | g<<6 | b<<12 | k<<18 | d<<23 | a<<24 | p<<25 | m<<26`, the positions taken from the layout (R61, R86). -/
def encodeLayer (L : Config.LayerLayout) (px : LayerPixel) : Word32 :=
  encodeColor px.color ||| px.perPixelCoefficient.setWidth 32 <<< L.k ||| flagBit px.is3dSourced L.d
    ||| flagBit px.alphaBlendEnabled L.a ||| flagBit px.usesPerPixelCoefficient L.p ||| px.targetMask.setWidth 32 <<< L.m

/-- `r | g<<6 | b<<12 | A<<18` (R64, R86). -/
def encodeP3d (px : Pixel3D) : Word32 :=
  encodeColor px.color ||| px.alpha.setWidth 32 <<< 18

/-! ## Numeric codes of the enumerations (R66, D7) -/

/-- `effect_select`: None 0, AlphaBlend 1, BrightnessUp 2, BrightnessDown 3 (R30, R66). -/
def Effect.code : Effect → BitVec 2
  | .none => 0
  | .alphaBlend => 1
  | .brightnessUp => 2
  | .brightnessDown => 3

/-- `master_brightness_mode`: None 0, Up 1, Down 2 (R29, R66). -/
def MasterMode.code : MasterMode → BitVec 2
  | .none => 0
  | .up => 1
  | .down => 2

/-- The effect a code names: all four codes name one (R66). -/
def Effect.ofCode (c : BitVec 2) : Effect :=
  if c = 0 then .none else if c = 1 then .alphaBlend else if c = 2 then .brightnessUp else .brightnessDown

/-- The mode a code names; 3 names none (R29, R72, R73). -/
def MasterMode.ofCode (c : BitVec 2) : Option MasterMode :=
  if c = 0 then some .none else if c = 1 then some .up else if c = 2 then some .down else Option.none

/-- A record read from a packed interface: none where the mode's code names no mode (R66, R73). -/
def decodeCfg (c : CfgCodes) : Option CfgRec :=
  match MasterMode.ofCode c.masterBrightnessMode with
  | none => none
  | some mode =>
    some
      { masterBrightnessFactor := c.masterBrightnessFactor
        masterBrightnessMode := mode
        effectSelect := Effect.ofCode c.effectSelect
        target1Mask := c.target1Mask
        target2Mask := c.target2Mask
        blendCoeffA := c.blendCoeffA
        blendCoeffB := c.blendCoeffB }

/-- A record as a packed interface would present it (R66, D7). -/
def encodeCfg (c : CfgRec) : CfgCodes :=
  { masterBrightnessFactor := c.masterBrightnessFactor
    masterBrightnessMode := c.masterBrightnessMode.code
    effectSelect := c.effectSelect.code
    target1Mask := c.target1Mask
    target2Mask := c.target2Mask
    blendCoeffA := c.blendCoeffA
    blendCoeffB := c.blendCoeffB }

/-! ## The selection table -/

/-- What a selecting word is: which of the formats of R60 it has. The stage that reads it decides; the word itself does
not say. PIXEL and FRAME are selected by no key (R131, R134): their words hold their operand, a linear position
(17 bits, R24) and a screen number (R42). -/
inductive KeyFormat where
  | layerT | layerB | p3d | subkeyT | subkeyB | reskey | mbkey | position | frameArg
  deriving DecidableEq, Repr

/-- The width of each format (R60, R24). -/
def KeyFormat.width : KeyFormat → Nat
  | .layerT => 32
  | .layerB => 32
  | .p3d => 32
  | .subkeyT => 2
  | .subkeyB => 2
  | .reskey => 7
  | .mbkey => 2
  | .position => 17
  | .frameArg => 1

/-- Why a word selects nothing. -/
inductive Reject where
  /-- bits above the format's width are set -/
  | tooWide (f : KeyFormat)
  /-- `MBKEY = 11` (R73, R146) -/
  | badModeCode
  /-- no row of the format fits (never met: the rows of every other key cover it, R69, R71, R74) -/
  | noRow (f : KeyFormat)
  /-- there is no position 98304 or above (R25) -/
  | noSuchPosition
  deriving DecidableEq, Repr

/-- One row of spec/opcode_table.json: the operation is selected when `word &&& mask = pattern`. -/
structure TableRow where
  format : KeyFormat
  pattern : BitVec 32
  mask : BitVec 32
  instr : Instr
  deriving DecidableEq, Repr

/-- The decoder's rows: no fixed bits (R82 to R84). -/
def decRows : List TableRow :=
  [⟨.layerT, 0x0, 0x0, .decLt⟩, ⟨.layerB, 0x0, 0x0, .decLb⟩, ⟨.p3d, 0x0, 0x0, .decP3⟩]

/-- The substitution rows (R69, R91 to R96). -/
def subRows : List TableRow :=
  [⟨.subkeyT, 0x0, 0x2, .subtKeep⟩, ⟨.subkeyT, 0x2, 0x3, .subt3d⟩, ⟨.subkeyT, 0x3, 0x3, .subtFall⟩,
   ⟨.subkeyB, 0x0, 0x2, .subbKeep⟩, ⟨.subkeyB, 0x2, 0x3, .subb3d⟩, ⟨.subkeyB, 0x3, 0x3, .subbBlack⟩]

/-- The resolver's rows for rules 1 and 2 (R71, R104 to R106). -/
def resBlendRows : List TableRow :=
  [⟨.reskey, 0x44, 0x44, .resB3d⟩, ⟨.reskey, 0x34, 0x74, .resBpp⟩, ⟨.reskey, 0x24, 0x74, .resBgl⟩]

/-- The resolver's rows for rule 3 (R71, R107 to R111). -/
def resEffectRows : List TableRow :=
  [⟨.reskey, 0x00, 0x07, .resFxnone⟩, ⟨.reskey, 0x04, 0x67, .resFxnoneM2⟩,
   ⟨.reskey, 0x0D, 0x6F, .resFxalpha⟩, ⟨.reskey, 0x01, 0x07, .resFxapass⟩, ⟨.reskey, 0x05, 0x6F, .resFxapassM2⟩,
   ⟨.reskey, 0x02, 0x07, .resFxup⟩, ⟨.reskey, 0x06, 0x67, .resFxupM2⟩,
   ⟨.reskey, 0x03, 0x07, .resFxdown⟩, ⟨.reskey, 0x07, 0x67, .resFxdownM2⟩]

/-- The brightness rows (R72, R121 to R123). -/
def mbRows : List TableRow :=
  [⟨.mbkey, 0x0, 0x3, .mbNone⟩, ⟨.mbkey, 0x1, 0x3, .mbUp⟩, ⟨.mbkey, 0x2, 0x3, .mbDown⟩]

/-- The 24 rows a key selects. -/
def table : List TableRow := decRows ++ subRows ++ resBlendRows ++ resEffectRows ++ mbRows

/-- Does the row take this word of this format? -/
def TableRow.takes (row : TableRow) (f : KeyFormat) (w : BitVec 32) : Bool :=
  decide (row.format = f) && decide (w &&& row.mask = row.pattern)

/-- The instruction of the row that takes the word. -/
def lookupRow (f : KeyFormat) (w : BitVec 32) : Except Reject Instr :=
  match table.find? (fun row => row.takes f w) with
  | some row => .ok row.instr
  | none => .error (if f = .mbkey then .badModeCode else .noRow f)

/-- The linear form of a position, `p = (s*192 + r)*256 + x` (R24). -/
def linear (screen row col : Nat) : Nat := (screen * 192 + row) * 256 + col

/-- PIXEL at the position a 17-bit linear index names (R24, R25). -/
def decodePosition (p : Nat) : Except Reject Instr :=
  if p < Config.pixels then .ok (.pixel (p / 49152) (p / 256 % 192) (p % 256)) else .error .noSuchPosition

/-- The operation a word of a given format selects (R69 to R73). Total on every word. -/
def decode (f : KeyFormat) (w : BitVec 32) : Except Reject Instr :=
  if w.toNat < 2 ^ f.width then
    match f with
    | .position => decodePosition w.toNat
    | .frameArg => .ok (.frame w.toNat)
    | .layerT => lookupRow .layerT w
    | .layerB => lookupRow .layerB w
    | .p3d => lookupRow .p3d w
    | .subkeyT => lookupRow .subkeyT w
    | .subkeyB => lookupRow .subkeyB w
    | .reskey => lookupRow .reskey w
    | .mbkey => lookupRow .mbkey w
  else .error (.tooWide f)

/-! ## The encoder -/

/-- The format of the word that selects an operation. -/
def Instr.format : Instr → KeyFormat
  | .decLt => .layerT
  | .decLb => .layerB
  | .decP3 => .p3d
  | .subtKeep | .subt3d | .subtFall => .subkeyT
  | .subbKeep | .subb3d | .subbBlack => .subkeyB
  | .resB3d | .resBpp | .resBgl | .resFxnone | .resFxnoneM2 | .resFxalpha | .resFxapass | .resFxapassM2 => .reskey
  | .resFxup | .resFxupM2 | .resFxdown | .resFxdownM2 => .reskey
  | .mbNone | .mbUp | .mbDown => .mbkey
  | .pixel _ _ _ => .position
  | .frame _ => .frameArg

/-- The word of an operation: its row's fixed bits with every free bit 0, or its operand (R24, R69 to R72). -/
def encode : Instr → BitVec 32
  | .decLt => 0x0
  | .decLb => 0x0
  | .decP3 => 0x0
  | .subtKeep => 0b00
  | .subt3d => 0b10
  | .subtFall => 0b11
  | .subbKeep => 0b00
  | .subb3d => 0b10
  | .subbBlack => 0b11
  | .resB3d => 0b1000100
  | .resBpp => 0b0110100
  | .resBgl => 0b0100100
  | .resFxnone => 0b0000000
  | .resFxnoneM2 => 0b0000100
  | .resFxalpha => 0b0001101
  | .resFxapass => 0b0000001
  | .resFxapassM2 => 0b0000101
  | .resFxup => 0b0000010
  | .resFxupM2 => 0b0000110
  | .resFxdown => 0b0000011
  | .resFxdownM2 => 0b0000111
  | .mbNone => 0b00
  | .mbUp => 0b01
  | .mbDown => 0b10
  | .pixel screen row col => BitVec.ofNat 32 (linear screen row col)
  | .frame screen3d => BitVec.ofNat 32 screen3d

/-! ## The host's reading of a table word -/

/-- Which format a bare word of the opcode table is read in, by its length alone. The table's formats share their lengths
(three of 32 bits, three of 2 bits), and a byte of the table may be a 2-bit or a 7-bit key: here 32 bits are a top-slot
layer word, 2 bits a top-slot substitution key, a byte a resolver key, 17 bits (3 bytes) a position, and no bits at all PIXEL
at its operand 0 (DESIGN CHOICE, log 10; the machine's own step never guesses: the stage that reads a word knows its format). -/
def tableFormat (nbits : Nat) : Option KeyFormat :=
  if nbits = 0 then some .position
  else if nbits ≤ 2 then some .subkeyT
  else if nbits ≤ 8 then some .reskey
  else if nbits = 17 ∨ nbits = 24 then some .position
  else if nbits = 32 then some .layerT
  else none

/-- What the decoder reads from a word of spec/opcode_table.json, `nbits` long. -/
def decodeTableWord (nbits w : Nat) : Option Instr :=
  match tableFormat nbits with
  | none => none
  | some f =>
    if w < 2 ^ 32 then
      match decode f (BitVec.ofNat 32 w) with
      | .ok i => some i
      | .error _ => none
    else none

end Sys2Proof
end

