-- ==== Sys2Proof/Machine/State.lean ====
section
/-! DEFINITION. Machine/State.lean: everything the spec gives the compositor (spec/10_state.md rule R20): the five buffers, the
frame phase, and per pixel invocation the latches and the position; with the moves the host and the scheduler make, as plain
data. Reset values are spec/70_reset_and_hazards.md rule R162. -/

namespace Sys2Proof.Machine

/-- The frame phase (R34). -/
inductive Phase where
  | idle | run | done
  deriving DecidableEq, Repr

/-- A buffer: its elements that hold a value, as (index, element) pairs of rising index. An index that is not listed holds no
value (R14, R161). The block has no bytes: an element is read and written whole (R44, R47, log 1). -/
abbrev Buf (α : Type) := List (Nat × α)

/-- The five buffers (R40), each an index space of its own. -/
structure Memory where
  /-- `TOP`, index `(s*192 + r)*256 + x` -/
  top : Buf Word32
  /-- `BOT`, the same index -/
  bot : Buf Word32
  /-- `G3D`, index `r*256 + x` -/
  g3d : Buf Word32
  /-- `CFG`, index `s*192 + r` -/
  cfg : Buf CfgRec
  /-- `OUT`, index `y*256 + x` with `y = 192*s + r` -/
  out : Buf OutEl
  deriving DecidableEq, Repr

/-- The four input buffers, by name (R20). -/
inductive InputBuf where
  | top | bot | g3d | cfg
  deriving DecidableEq, Repr

/-- The eleven latches, by name (R21). -/
inductive LatchName where
  | wt | wb | w3 | cf | lt | lb | p3 | st | sb | cc | oc
  deriving DecidableEq, Repr

/-- The latches of one invocation (R21). `none` is the spec's own state: a latch holds no value before its write within the
invocation (R22). -/
structure Latches where
  wt : Option Word32
  wb : Option Word32
  w3 : Option Word32
  cf : Option CfgRec
  lt : Option LayerPixel
  lb : Option LayerPixel
  p3 : Option Pixel3D
  st : Option Color
  sb : Option Color
  cc : Option Color
  oc : Option OutEl
  deriving DecidableEq, Repr

/-- The latches at the start of an invocation: none holds a value (R22, R162). -/
def Latches.empty : Latches :=
  { wt := none, wb := none, w3 := none, cf := none, lt := none, lb := none, p3 := none, st := none, sb := none, cc := none,
    oc := none }

/-- One pixel invocation in flight: its position, constant while it lasts (R24), and its latches (R21). -/
structure Invocation where
  pos : Pos
  latches : Latches
  deriving DecidableEq, Repr

/-- What can happen next, as plain data: the moves of the host's agents (R147) and the choices of the scheduler (R25, R137). -/
inductive Move where
  /-- RAST2D writes one element of `TOP` -/
  | writeTop (p : Pos) (w : Word32)
  /-- RAST2D writes one element of `BOT` -/
  | writeBot (p : Pos) (w : Word32)
  /-- RAST3D writes one element of `G3D` -/
  | writeG3d (row : Row) (col : Col) (w : Word32)
  /-- REGEMU writes one record of `CFG` -/
  | writeCfg (screen : Screen) (row : Row) (c : CfgRec)
  /-- REGEMU writes one record through a packed interface, its enumerations as codes (R66, R73) -/
  | writeCfgCodes (screen : Screen) (row : Row) (c : CfgCodes)
  /-- the host starts a frame (R34) -/
  | frameStart (screen3d : Screen)
  /-- PRESENT acknowledges the frame (R34) -/
  | frameAck
  /-- PRESENT reads one element of `OUT` (R53) -/
  | readOut (row : Fin 384) (col : Col)
  /-- a whole frame as one operation, FRAME (R134) -/
  | compositeFrame (screen3d : Screen)
  /-- the invocation at a position runs, whole, PIXEL (R131, R137) -/
  | runPixel (p : Pos)
  /-- the invocation at a position starts, split into its lines (R131, R137) -/
  | beginPixel (p : Pos)
  /-- the split invocation at a position runs its next line (R131, R137) -/
  | advance (p : Pos)
  deriving DecidableEq, Repr

structure State where
  /-- `LAYER_LAYOUT`, the argument of the model that says where a layer word holds its fields (R7, R61, D4): every layout can
  stand here, and no step changes it (log 4) -/
  layout : Config.LayerLayout
  /-- the frame phase (R34) -/
  phase : Phase
  /-- `SCREEN_3D`, the argument of the frame in progress (R42, R134); none while no frame is -/
  screen3d : Option Screen
  /-- the five buffers (R40) -/
  mem : Memory
  /-- the positions whose invocation has begun in this frame, as a set of linear indices (R25: each runs exactly once) -/
  started : Buf Unit
  /-- the invocation whose operation runs: the latches `x[NAME]` and the position `pc` are its own (R12, R21, R24) -/
  cur : Option Invocation
  /-- the other invocations in flight (R151), the one that was current last at the head (the order is the model's, log 8) -/
  waiting : List Invocation
  /-- the moves to come, the next one first (the model's own field, log 9) -/
  moves : List Move
  /-- the value PRESENT's last read returned (the model's own field, log 17) -/
  shown : Option OutEl
  deriving DecidableEq, Repr

/-- Why the machine stops on a read of something that holds no value. All are safe: the hardware's result there is unknown and
the model claims nothing. -/
inductive Fault where
  /-- raised by a fetch of an input element that holds no value (R44, R161); safe -/
  | inputHoldsNoValue (b : InputBuf) (index : Nat)
  /-- raised by PRESENT's read of an element of `OUT` that holds no value (R161); safe -/
  | outHoldsNoValue (index : Nat)
  /-- raised by an operation that reads a latch holding no value (R14, R22); safe -/
  | latchHoldsNoValue (l : LatchName)
  /-- raised by an operation run while no invocation is current: the latches do not exist outside one (R162); safe -/
  | noInvocation
  deriving DecidableEq, Repr

/-- What the model gives no meaning (R143). All are safe: nothing can be proved of what follows. -/
inductive Refusal where
  /-- raised by exec's arm of an instruction that has no meaning yet (no arm is, in this model); safe -/
  | notModelled (mnemonic : String)
  /-- raised by frame_start: a 3D-sourced slot on the screen that is not `SCREEN_3D` (R144); safe -/
  | flag3DOffScreen
  /-- raised by a host write of an input element in phase Run (R145); safe -/
  | inputWrittenDuringRun
  /-- raised by a host write of an input element in phase Done, before frame_ack (R147, log 12); safe -/
  | inputWrittenBeforeAck
  /-- raised by frame_start in phase Run or Done (R146); safe -/
  | startNotIdle
  /-- raised by PRESENT's read of `OUT` outside phase Done (R146); safe -/
  | readBeforeDone
  /-- raised by a packed interface that presents `MBKEY = 11` (R73, R146); safe -/
  | badModeCode
  /-- raised by frame_ack outside phase Done (log 13); safe -/
  | ackNotDone
  /-- raised by a scheduler's choice of an invocation that is not enabled (R137, log 14); safe -/
  | notEnabled
  /-- raised by PIXEL at a position that does not exist (R24, R25, log 15); safe -/
  | noSuchPosition
  /-- raised by FRAME with a screen that does not exist (R42, log 15); safe -/
  | noSuchScreen
  /-- raised by a selecting word no row of the table takes (never met, log 15); safe -/
  | selectsNothing
  deriving DecidableEq, Repr

/-- After reset no element of any buffer holds a value (R160, R162). -/
def Memory.reset : Memory := { top := [], bot := [], g3d := [], cfg := [], out := [] }

/-- The machine right after reset (R160, R162): Idle, no element of any buffer holds a value, no invocation exists. Its layout
is the spec's default (D4); a machine with another one is `{ State.reset with layout := L }`. -/
def State.reset : State :=
  { layout := defaultLayout, phase := .idle, screen3d := none, mem := Memory.reset, started := [], cur := none, waiting := [], moves := [], shown := none }

end Sys2Proof.Machine
end

