-- ==== Sys2Proof/Machine/Ops.lean ====
section
/-! DEFINITION. Machine/Ops.lean: the named operations every meaning is written over: buffer reads and writes
(spec/20_memory.md), the index of each buffer at a position, latch reads and writes of the current invocation
(spec/10_state.md rules R12, R21, R22), fetch and store (spec/44_pixel_and_frame.md rules R130, R132), the invocations in
flight, the frame handshake (R34) and the host's moves (spec/60_exceptions.md rules R144 to R147). The block takes no
exception and returns from none (R140, R149, R150), so there is no such operation here. -/

namespace Sys2Proof.Machine

/-! ## Buffers -/

/-- The element at an index, none where it holds no value (R44, R161). -/
def readBuf {α : Type} (b : Buf α) (i : Nat) : Option α :=
  match b with
  | [] => none
  | (j, v) :: rest => if i = j then some v else readBuf rest i

/-- The whole element written at an index (R46), the indices kept rising. -/
def writeBuf {α : Type} (b : Buf α) (i : Nat) (v : α) : Buf α :=
  match b with
  | [] => [(i, v)]
  | (j, u) :: rest =>
    if i < j then (i, v) :: (j, u) :: rest
    else if i = j then (i, v) :: rest
    else (j, u) :: writeBuf rest i v

/-- The canonical form of a buffer of `n` elements: indices strictly rising, each an index the buffer has (R40). -/
abbrev bufWf {α : Type} (n : Nat) (b : Buf α) : Prop :=
  b.Pairwise (fun e f => e.1 < f.1) ∧ ∀ e ∈ b, e.1 < n

/-- The canonical form of the five buffers, with the number of elements R40 gives each. -/
abbrev Memory.wf (m : Memory) : Prop :=
  bufWf Config.pixels m.top ∧ bufWf Config.pixels m.bot ∧ bufWf Config.g3dElements m.g3d
    ∧ bufWf Config.cfgRecords m.cfg ∧ bufWf Config.pixels m.out

/-! ## Positions and indices -/

/-- The linear form of a position (R24), which is also the index of its elements of `TOP` and `BOT` (R41). -/
def posIndex (p : Pos) : Nat := linear p.screen.val p.row.val p.col.val

/-- The 3D remap: `G3D[r][x]`, whatever the screen (R42). -/
def g3dIndex (row : Row) (col : Col) : Nat := row.val * 256 + col.val

/-- `CFG[s][r]` (R43). -/
def cfgIndex (screen : Screen) (row : Row) : Nat := screen.val * 192 + row.val

/-- `OUT[y][x]` (R43). -/
def outIndex (y : Nat) (col : Col) : Nat := y * 256 + col.val

/-- The output row of a position, `y = 192*s + r` (R43). -/
def outRow (p : Pos) : Nat := 192 * p.screen.val + p.row.val

/-- The position an operand triple names, none where there is no such position (R24). -/
def posOf (screen row col : Nat) : Option Pos :=
  if hs : screen < 2 then
    if hr : row < 192 then
      if hc : col < 256 then some ⟨⟨screen, hs⟩, ⟨row, hr⟩, ⟨col, hc⟩⟩ else none
    else none
  else none

/-- The position of a linear index (R24, R25). -/
def posOfIndex (n : Nat) : Option Pos := posOf (n / 49152) (n / 256 % 192) (n % 256)

/-- The screen an operand names (R42). -/
def screenOf (n : Nat) : Option Screen := if h : n < 2 then some ⟨n, h⟩ else none

/-! ## Latches -/

/-- Read a latch for an operation: reading one that holds no value faults (R14, R22). DESIGN CHOICE (log 2): an operation that reads
several takes them in the order of its rule's Operands line, which is not always the order of its pseudocode's lines, and so the
fault names the first empty one in that order. -/
def operand {α : Type} (name : LatchName) (latch : Option α) (k : α → Except Fault Latches) : Except Fault Latches :=
  match latch with
  | none => .error (.latchHoldsNoValue name)
  | some v => k v

/-- Run an operation on the latches of the current invocation; nothing else changes (R26). -/
def onLatches (f : Latches → Except Fault Latches) (s : State) : Host.Outcome State Fault Refusal :=
  match s.cur with
  | none => .fault .noInvocation
  | some inv =>
    match f inv.latches with
    | .error e => .fault e
    | .ok l => .next { s with cur := some { inv with latches := l } }

/-! ## Fetch and store -/

/-- `MemRead` of an input element: faults where it holds no value (R44, R161). -/
def memRead {α β : Type} (name : InputBuf) (b : Buf α) (i : Nat) (k : α → Except Fault β) : Except Fault β :=
  match readBuf b i with
  | none => .error (.inputHoldsNoValue name i)
  | some v => k v

/-- What the fetch of one invocation reads (R45, R130). -/
structure Fetched where
  wt : Word32
  wb : Word32
  w3 : Word32
  cf : CfgRec
  deriving DecidableEq, Repr

/-- The fetch step: `TOP[s][r][x]`, `BOT[s][r][x]`, `G3D[r][x]`, `CFG[s][r]` (R130). DESIGN CHOICE (log 22): R130 lets the four
reads happen in any order; here they are made in this one, so where several elements hold no value the fault names the first of
them in it. -/
def fetchAt (m : Memory) (p : Pos) : Except Fault Fetched :=
  memRead .top m.top (posIndex p) fun wt =>
  memRead .bot m.bot (posIndex p) fun wb =>
  memRead .g3d m.g3d (g3dIndex p.row p.col) fun w3 =>
  memRead .cfg m.cfg (cfgIndex p.screen p.row) fun cf =>
  .ok { wt := wt, wb := wb, w3 := w3, cf := cf }

/-- The four fetched latches written (R130). -/
def latchFetched (l : Latches) (f : Fetched) : Latches :=
  { l with wt := some f.wt, wb := some f.wb, w3 := some f.w3, cf := some f.cf }

/-- The store step's write, `OUT[192*s + r][x] <- v` (R46, R132). -/
def storeAt (m : Memory) (p : Pos) (v : OutEl) : Memory :=
  { m with out := writeBuf m.out (outIndex (outRow p) p.col) v }

/-- The fetch line of the current invocation (R130, R131). -/
def fetchCur (s : State) : Host.Outcome State Fault Refusal :=
  match s.cur with
  | none => .fault .noInvocation
  | some inv =>
    match fetchAt s.mem inv.pos with
    | .error e => .fault e
    | .ok f => .next { s with cur := some { inv with latches := latchFetched inv.latches f } }

/-- `Run -> Done` when the last invocation has stored (R34): all positions have begun and none is in flight. -/
def finishFrame (s : State) : State :=
  if s.phase = .run ∧ s.started.length = Config.pixels ∧ s.cur = none ∧ s.waiting = [] then { s with phase := .done } else s

/-- The store line of the current invocation, the last act of it: its latches and its position cease to exist (R21, R132). -/
def storeCur (s : State) : Host.Outcome State Fault Refusal :=
  match s.cur with
  | none => .fault .noInvocation
  | some inv =>
    match inv.latches.oc with
    | none => .fault (.latchHoldsNoValue .oc)
    | some v => .next (finishFrame { s with mem := storeAt s.mem inv.pos v, cur := none })

/-! ## Invocations in flight -/

/-- An invocation is enabled while the phase is Run and it has not yet begun (R25, R137). -/
def enabled (p : Pos) (s : State) : Bool :=
  decide (s.phase = .run) && (readBuf s.started (posIndex p)).isNone

/-- Mark a position as begun: it never begins again in this frame (R25). -/
def markStarted (p : Pos) (s : State) : State := { s with started := writeBuf s.started (posIndex p) () }

/-- All invocations in flight (R151), the current one first and the others behind it in the order they were last current, the latest
first. R25 leaves an order among them open: DESIGN CHOICE (log 8), safe. -/
def inFlight (s : State) : List Invocation :=
  match s.cur with
  | none => s.waiting
  | some inv => inv :: s.waiting

/-- Begin the split invocation at a position: it becomes current, its latches hold no value (R22, R137); the one that was current
becomes the first of those that wait (log 8). -/
def beginAt (p : Pos) (s : State) : Host.Outcome State Fault Refusal :=
  if enabled p s then
    .next (markStarted p { s with cur := some { pos := p, latches := Latches.empty }, waiting := inFlight s })
  else .refused .notEnabled

/-- Make the invocation at a position current, the one that was current the first of those that wait (log 8); none where no
invocation at that position is in flight. -/
def selectAt (p : Pos) (s : State) : Option State :=
  match (inFlight s).find? (fun inv => decide (inv.pos = p)) with
  | none => none
  | some inv => some { s with cur := some inv, waiting := (inFlight s).filter (fun other => decide (other.pos ≠ p)) }

/-- The lowest linear index at or above `n` that has not begun; the indices of the set rise. -/
def lowestFree (n : Nat) (b : Buf Unit) : Nat :=
  match b with
  | [] => n
  | (j, _) :: rest => if j = n then lowestFree (n + 1) rest else n

/-! ## The frame handshake -/

/-- The screen an index of `TOP` or `BOT` belongs to (R24, R41). -/
def indexScreen (i : Nat) : Nat := i / 49152

/-- Is some word of the buffer, read by the layout, 3D-sourced on a screen that is not `t`? (R61, R144) -/
def flaggedOffScreen (L : Config.LayerLayout) (t : Screen) (b : Buf Word32) : Bool :=
  b.any fun e => decide (indexScreen e.1 ≠ t.val) && (decodeLayer L e.2).is3dSourced

/-- `frame_start(SCREEN_3D = t)` (R34, R144, R146): `Idle -> Run`, with no invocation begun. An input element that holds no
value does not refuse the start: the invocation that reads it faults (R146, R161). -/
def frameStart (t : Screen) (s : State) : Host.Outcome State Fault Refusal :=
  if s.phase ≠ .idle then .refused .startNotIdle
  else if flaggedOffScreen s.layout t s.mem.top || flaggedOffScreen s.layout t s.mem.bot then .refused .flag3DOffScreen
  else .next { s with phase := .run, screen3d := some t, started := [], cur := none, waiting := [] }

/-- `frame_ack`: `Done -> Idle` (R34). -/
def frameAck (s : State) : Host.Outcome State Fault Refusal :=
  if s.phase = .done then .next { s with phase := .idle, screen3d := none } else .refused .ackNotDone

/-- A host write of the inputs: allowed while Idle (R34, R147), refused during Run (R145) and before the acknowledgement. -/
def hostWrite (f : Memory → Memory) (s : State) : Host.Outcome State Fault Refusal :=
  match s.phase with
  | .idle => .next { s with mem := f s.mem }
  | .run => .refused .inputWrittenDuringRun
  | .done => .refused .inputWrittenBeforeAck

/-- RAST2D's write of `TOP[s][r][x]` (R41, R147). -/
def writeTop (p : Pos) (w : Word32) (m : Memory) : Memory := { m with top := writeBuf m.top (posIndex p) w }

/-- RAST2D's write of `BOT[s][r][x]` (R41, R147). -/
def writeBot (p : Pos) (w : Word32) (m : Memory) : Memory := { m with bot := writeBuf m.bot (posIndex p) w }

/-- RAST3D's write of `G3D[r][x]` (R42, R147). -/
def writeG3d (row : Row) (col : Col) (w : Word32) (m : Memory) : Memory :=
  { m with g3d := writeBuf m.g3d (g3dIndex row col) w }

/-- REGEMU's write of `CFG[s][r]` (R27, R43, R147). -/
def writeCfg (screen : Screen) (row : Row) (c : CfgRec) (m : Memory) : Memory :=
  { m with cfg := writeBuf m.cfg (cfgIndex screen row) c }

/-- REGEMU's write through a packed interface: the mode code 3 is refused (R73, R146). -/
def writeCfgCodes (screen : Screen) (row : Row) (c : CfgCodes) (s : State) : Host.Outcome State Fault Refusal :=
  match decodeCfg c with
  | none => .refused .badModeCode
  | some rec => hostWrite (writeCfg screen row rec) s

/-- PRESENT's read of `OUT[y][x]`, allowed at Done (R53, R146, R147). What it returns is the element itself; a consumer that needs
integers applies `OUT_FORMAT` to it (R67, D12): `presentedIn`, Machine/Parameters.lean. -/
def presentRead (y : Fin 384) (col : Col) (s : State) : Host.Outcome State Fault Refusal :=
  if s.phase = .done then
    match readBuf s.mem.out (outIndex y.val col) with
    | none => .fault (.outHoldsNoValue (outIndex y.val col))
    | some v => .next { s with shown := some v }
  else .refused .readBeforeDone

end Sys2Proof.Machine
end

