-- ==== Sys2Proof/Machine/Resolve.lean ====
section
/-! DEFINITION. Machine/Resolve.lean: stage 3, the blend priority resolver (spec/42_resolve.md). Each operation's colour is a
pure function of its operands; the meaning writes it to `CC`. Which operation runs is the key's matter
(Machine/Flags.lean, Decode.lean). -/

namespace Sys2Proof.Machine

/-- RES.B3D: weights `alpha/31` and `1 - alpha/31` (R104). -/
def b3dColor (st sb : Color) (p3 : Pixel3D) : Color :=
  blend st sb (coeffAlpha p3.alpha) (1 - coeffAlpha p3.alpha)

/-- RES.BPP: weights `k/16` and `1 - k/16` (R105). -/
def bppColor (st sb : Color) (lt : LayerPixel) : Color :=
  blend st sb (coeff16 lt.perPixelCoefficient.toNat) (1 - coeff16 lt.perPixelCoefficient.toNat)

/-- The global blend: weights `blend_coeff_a/16` and `blend_coeff_b/16`, independent (R106, R108). -/
def globalBlend (st sb : Color) (cf : CfgRec) : Color :=
  blend st sb (coeff16 cf.blendCoeffA.toNat) (coeff16 cf.blendCoeffB.toNat)

/-- The record's brightness factor `f` (R28, R68): the whole natural number over 16, unmasked (D22). -/
def factor (cf : CfgRec) : Rat := coeff16 cf.masterBrightnessFactor

/-- RES.FXUP's colour (R110). -/
def fxUpColor (st : Color) (cf : CfgRec) : Color := up st (factor cf)

/-- RES.FXDOWN's colour (R111). -/
def fxDownColor (st : Color) (cf : CfgRec) : Color := down st (factor cf)

/-- `x[CC] <- v`. -/
def setCc (v : Color) (l : Latches) : Latches := { l with cc := some v }

/-- `x[CC] <- x[ST]` (R107, R109). -/
def passTop (l : Latches) : Except Fault Latches :=
  operand .st l.st fun st => .ok (setCc st l)

/-- `x[CC] <- ` the global blend (R106, R108). Latches in the order ST, SB, CF of the Operands line: DESIGN CHOICE (log 2). -/
def blendGlobal (l : Latches) : Except Fault Latches :=
  operand .st l.st fun st => operand .sb l.sb fun sb => operand .cf l.cf fun cf => .ok (setCc (globalBlend st sb cf) l)

/-- `x[CC] <- up(x[ST], f)` (R110). Latches in the order ST, CF of the Operands line: DESIGN CHOICE (log 2). -/
def brightenTop (l : Latches) : Except Fault Latches :=
  operand .st l.st fun st => operand .cf l.cf fun cf => .ok (setCc (fxUpColor st cf) l)

/-- `x[CC] <- down(x[ST], f)` (R111). Latches in the order ST, CF of the Operands line: DESIGN CHOICE (log 2). -/
def darkenTop (l : Latches) : Except Fault Latches :=
  operand .st l.st fun st => operand .cf l.cf fun cf => .ok (setCc (fxDownColor st cf) l)

/-- RES.B3D (R104). Latches in the order ST, SB, P3 of the Operands line: DESIGN CHOICE (log 2). -/
def execResB3d (s : State) : Host.Outcome State Fault Refusal :=
  onLatches (fun l => operand .st l.st fun st => operand .sb l.sb fun sb => operand .p3 l.p3 fun p3 =>
    .ok (setCc (b3dColor st sb p3) l)) s

/-- RES.BPP (R105). Latches in the order ST, SB, LT of the Operands line: DESIGN CHOICE (log 2). -/
def execResBpp (s : State) : Host.Outcome State Fault Refusal :=
  onLatches (fun l => operand .st l.st fun st => operand .sb l.sb fun sb => operand .lt l.lt fun lt =>
    .ok (setCc (bppColor st sb lt) l)) s

/-- RES.BGL (R106). -/
def execResBgl (s : State) : Host.Outcome State Fault Refusal := onLatches blendGlobal s

/-- RES.FXNONE, bottom not in target 2 (R107). -/
def execResFxnone (s : State) : Host.Outcome State Fault Refusal := onLatches passTop s

/-- RES.FXNONE, bottom in target 2, rules 1 and 2 not matched (R107). -/
def execResFxnoneM2 (s : State) : Host.Outcome State Fault Refusal := onLatches passTop s

/-- RES.FXALPHA (R108). -/
def execResFxalpha (s : State) : Host.Outcome State Fault Refusal := onLatches blendGlobal s

/-- RES.FXAPASS, bottom not in target 2 (R109). -/
def execResFxapass (s : State) : Host.Outcome State Fault Refusal := onLatches passTop s

/-- RES.FXAPASS, bottom in target 2, top not in target 1 (R109). -/
def execResFxapassM2 (s : State) : Host.Outcome State Fault Refusal := onLatches passTop s

/-- RES.FXUP, bottom not in target 2 (R110). -/
def execResFxup (s : State) : Host.Outcome State Fault Refusal := onLatches brightenTop s

/-- RES.FXUP, bottom in target 2, rules 1 and 2 not matched (R110). -/
def execResFxupM2 (s : State) : Host.Outcome State Fault Refusal := onLatches brightenTop s

/-- RES.FXDOWN, bottom not in target 2 (R111). -/
def execResFxdown (s : State) : Host.Outcome State Fault Refusal := onLatches darkenTop s

/-- RES.FXDOWN, bottom in target 2, rules 1 and 2 not matched (R111). -/
def execResFxdownM2 (s : State) : Host.Outcome State Fault Refusal := onLatches darkenTop s

end Sys2Proof.Machine
end

