-- ==== Sys2Proof/Machine/Brightness.lean ====
section
/-! DEFINITION. Machine/Brightness.lean: stage 4, the brightness post-processor (spec/43_brightness.md): MB.NONE, MB.UP,
MB.DOWN, each from `CC` to `OC`. -/

namespace Sys2Proof.Machine

/-- MB.NONE's element: the channels copied exactly, no clamp (R121). -/
def mbNoneEl (cc : Color) : OutEl := opaqueEl cc

/-- MB.UP's element (R122). -/
def mbUpEl (cc : Color) (cf : CfgRec) : OutEl := opaqueEl (up cc (factor cf))

/-- MB.DOWN's element (R123). -/
def mbDownEl (cc : Color) (cf : CfgRec) : OutEl := opaqueEl (down cc (factor cf))

/-- `x[OC] <- v`. -/
def setOc (v : OutEl) (l : Latches) : Latches := { l with oc := some v }

/-- MB.NONE (R121): the record is not read. -/
def execMbNone (s : State) : Host.Outcome State Fault Refusal :=
  onLatches (fun l => operand .cc l.cc fun cc => .ok (setOc (mbNoneEl cc) l)) s

/-- MB.UP (R122). Latches in the order CC, CF of the Operands line: DESIGN CHOICE (log 2). -/
def execMbUp (s : State) : Host.Outcome State Fault Refusal :=
  onLatches (fun l => operand .cc l.cc fun cc => operand .cf l.cf fun cf => .ok (setOc (mbUpEl cc cf) l)) s

/-- MB.DOWN (R123). Latches in the order CC, CF of the Operands line: DESIGN CHOICE (log 2). -/
def execMbDown (s : State) : Host.Outcome State Fault Refusal :=
  onLatches (fun l => operand .cc l.cc fun cc => operand .cf l.cf fun cf => .ok (setOc (mbDownEl cc cf) l)) s

end Sys2Proof.Machine
end

