-- ==== Sys2Proof/Machine/DecodeStage.lean ====
section
/-! DEFINITION. Machine/DecodeStage.lean: stage 1, the layer pixel decoder (spec/40_decode.md): DEC.LT, DEC.LB, DEC.P3. -/

namespace Sys2Proof.Machine

/-- `x[LT] <- decode of x[WT]` under a layout (R61, R82). -/
def decLtLatches (L : Config.LayerLayout) (l : Latches) : Except Fault Latches :=
  operand .wt l.wt fun w => .ok { l with lt := some (decodeLayer L w) }

/-- `x[LB] <- decode of x[WB]`, the same layout (R83). -/
def decLbLatches (L : Config.LayerLayout) (l : Latches) : Except Fault Latches :=
  operand .wb l.wb fun w => .ok { l with lb := some (decodeLayer L w) }

/-- `x[P3] <- decode of x[W3]` (R84). -/
def decP3Latches (l : Latches) : Except Fault Latches :=
  operand .w3 l.w3 fun w => .ok { l with p3 := some (decodeP3d w) }

/-- DEC.LT (R82), by the machine's layout. -/
def execDecLt (s : State) : Host.Outcome State Fault Refusal := onLatches (decLtLatches s.layout) s

/-- DEC.LB (R83), by the machine's layout. -/
def execDecLb (s : State) : Host.Outcome State Fault Refusal := onLatches (decLbLatches s.layout) s

/-- DEC.P3 (R84). -/
def execDecP3 (s : State) : Host.Outcome State Fault Refusal := onLatches decP3Latches s

end Sys2Proof.Machine
end

