-- ==== Sys2Proof/Machine/Flags.lean ====
section
/-! DEFINITION. Machine/Flags.lean: the conditions that select operations. The block has no status flags (spec/10_state.md
rule R26); these are pure functions of the latches, computed afresh for every pixel: the predicates of
spec/42_resolve.md rule R102 and the keys of spec/30_encoding.md rules R69, R70, R72. -/

namespace Sys2Proof.Machine

/-- `intersects(a, b)`: the masks share a set bit (R10). -/
def intersects (a b : BitVec 6) : Bool := decide (a &&& b ≠ 0)

/-- `AZ`: the 3D alpha is 0 (R69). -/
def alphaZero (p3 : Pixel3D) : Bool := decide (p3.alpha = 0)

/-- `M1`: the top pixel is in target 1 (R102). -/
def topInTarget1 (lt : LayerPixel) (cf : CfgRec) : Bool := intersects lt.targetMask cf.target1Mask

/-- `M2`: the bottom pixel is in target 2 (R102). -/
def bottomInTarget2 (lb : LayerPixel) (cf : CfgRec) : Bool := intersects lb.targetMask cf.target2Mask

/-- A Boolean as bit `n` of a key. -/
def keyBit (b : Bool) (n : Nat) : BitVec 32 := (BitVec.ofBool b).setWidth 32 <<< n

/-- `SUBKEY = {is_3d_sourced, AZ}`, for either slot (R69). -/
def subKey (slot : LayerPixel) (p3 : Pixel3D) : BitVec 32 :=
  keyBit slot.is3dSourced 1 ||| keyBit (alphaZero p3) 0

/-- `RESKEY = {T3D, ABE, PPC, M1, M2, EFF[1:0]}` (R70). -/
def resKey (lt lb : LayerPixel) (cf : CfgRec) : BitVec 32 :=
  keyBit lt.is3dSourced 6 ||| keyBit lt.alphaBlendEnabled 5 ||| keyBit lt.usesPerPixelCoefficient 4
    ||| keyBit (topInTarget1 lt cf) 3 ||| keyBit (bottomInTarget2 lb cf) 2 ||| cf.effectSelect.code.setWidth 32

/-- `MBKEY`: the code of the mode (R72). -/
def mbKey (cf : CfgRec) : BitVec 32 := cf.masterBrightnessMode.code.setWidth 32

end Sys2Proof.Machine
end

