-- ==== Sys2Proof/Machine/Substitute.lean ====
section
/-! DEFINITION. Machine/Substitute.lean: stage 2, the 3D substitution stage (spec/41_substitute.md). Each operation's colour is
a pure function of the decoded pixels it reads; the meaning writes it to `ST` or `SB`. -/

namespace Sys2Proof.Machine

/-- SUBT.KEEP's colour: the top's own (R91). -/
def subtKeepColor (lt : LayerPixel) : Color := norm6c lt.color

/-- SUBT.3D's colour: the 3D colour, whole (R92). -/
def subt3dColor (p3 : Pixel3D) : Color := norm6c p3.color

/-- SUBT.FALL's colour: the bottom's decoded colour, never the substituted one (R90, R93). -/
def subtFallColor (lb : LayerPixel) : Color := norm6c lb.color

/-- SUBB.KEEP's colour: the bottom's own (R94). -/
def subbKeepColor (lb : LayerPixel) : Color := norm6c lb.color

/-- SUBB.3D's colour: the 3D colour (R95). -/
def subb3dColor (p3 : Pixel3D) : Color := norm6c p3.color

/-- SUBB.BLACK's colour (R96). -/
def subbBlackColor : Color := black

/-- `x[ST] <- v`. -/
def setSt (v : Color) (l : Latches) : Latches := { l with st := some v }

/-- `x[SB] <- v`. -/
def setSb (v : Color) (l : Latches) : Latches := { l with sb := some v }

/-- SUBT.KEEP (R91): reads LT, writes ST. -/
def execSubtKeep (s : State) : Host.Outcome State Fault Refusal :=
  onLatches (fun l => operand .lt l.lt fun lt => .ok (setSt (subtKeepColor lt) l)) s

/-- SUBT.3D (R92): reads P3, writes ST. -/
def execSubt3d (s : State) : Host.Outcome State Fault Refusal :=
  onLatches (fun l => operand .p3 l.p3 fun p3 => .ok (setSt (subt3dColor p3) l)) s

/-- SUBT.FALL (R93): reads LB, writes ST. -/
def execSubtFall (s : State) : Host.Outcome State Fault Refusal :=
  onLatches (fun l => operand .lb l.lb fun lb => .ok (setSt (subtFallColor lb) l)) s

/-- SUBB.KEEP (R94): reads LB, writes SB. -/
def execSubbKeep (s : State) : Host.Outcome State Fault Refusal :=
  onLatches (fun l => operand .lb l.lb fun lb => .ok (setSb (subbKeepColor lb) l)) s

/-- SUBB.3D (R95): reads P3, writes SB. -/
def execSubb3d (s : State) : Host.Outcome State Fault Refusal :=
  onLatches (fun l => operand .p3 l.p3 fun p3 => .ok (setSb (subb3dColor p3) l)) s

/-- SUBB.BLACK (R96): writes SB, reads no colour. -/
def execSubbBlack (s : State) : Host.Outcome State Fault Refusal :=
  onLatches (fun l => .ok (setSb subbBlackColor l)) s

end Sys2Proof.Machine
end

