-- ==== Sys2Proof/Machine/PixelFrame.lean ====
section
/-! DEFINITION. Machine/PixelFrame.lean: the four stages as one pure function per pixel, and PIXEL and FRAME
(spec/44_pixel_and_frame.md). The stage functions follow the procedures the source states (R97's cases, R103's priority
order, R120); the split invocation of Machine/Select.lean goes by the keys and the table instead (R69 to R73), so that the
two can be proved equal. -/

namespace Sys2Proof.Machine

/-- The top slot's colour after substitution (R91 to R93, R97). -/
def substituteTop (lt lb : LayerPixel) (p3 : Pixel3D) : Color :=
  if lt.is3dSourced then
    if p3.alpha = 0 then subtFallColor lb else subt3dColor p3
  else subtKeepColor lt

/-- The bottom slot's colour after substitution (R94 to R97). -/
def substituteBottom (lb : LayerPixel) (p3 : Pixel3D) : Color :=
  if lb.is3dSourced then
    if p3.alpha = 0 then subbBlackColor else subb3dColor p3
  else subbKeepColor lb

/-- The priority procedure: first matching rule wins (R103). -/
def resolve (st sb : Color) (lt lb : LayerPixel) (p3 : Pixel3D) (cf : CfgRec) : Color :=
  if lt.is3dSourced && bottomInTarget2 lb cf then b3dColor st sb p3
  else if lt.alphaBlendEnabled && bottomInTarget2 lb cf then
    if lt.usesPerPixelCoefficient then bppColor st sb lt else globalBlend st sb cf
  else
    match cf.effectSelect with
    | .none => st
    | .alphaBlend => if topInTarget1 lt cf && bottomInTarget2 lb cf then globalBlend st sb cf else st
    | .brightnessUp => fxUpColor st cf
    | .brightnessDown => fxDownColor st cf

/-- The brightness post-processor, chosen by the mode alone (R120). -/
def masterBrightness (cc : Color) (cf : CfgRec) : OutEl :=
  match cf.masterBrightnessMode with
  | .none => mbNoneEl cc
  | .up => mbUpEl cc cf
  | .down => mbDownEl cc cf

/-- `pixel : Word32 x Word32 x Word32 x CFGREC -> OUTEL`, total (R133), for each layout of the layer words (R7, R61). -/
def pixel (L : Config.LayerLayout) (wt wb w3 : Word32) (cf : CfgRec) : OutEl :=
  let lt := decodeLayer L wt
  let lb := decodeLayer L wb
  let p3 := decodeP3d w3
  masterBrightness (resolve (substituteTop lt lb p3) (substituteBottom lb p3) lt lb p3 cf) cf

/-- The element PIXEL computes from what it fetched. -/
def pixelOf (L : Config.LayerLayout) (f : Fetched) : OutEl := pixel L f.wt f.wb f.w3 f.cf

/-- PIXEL at a position (R130 to R132): fetch, `pixel`, store; the invocation has begun and ended in this one step. Enabled
while the phase is Run and the position has not begun (R137). -/
def pixelAt (p : Pos) (s : State) : Host.Outcome State Fault Refusal :=
  if enabled p s then
    match fetchAt s.mem p with
    | .error e => .fault e
    | .ok f => .next (finishFrame { markStarted p s with mem := storeAt s.mem p (pixelOf s.layout f) })
  else .refused .notEnabled

/-- PIXEL at the `n` positions from linear index `i` on, upward (R25, D14). -/
def pixelsFrom (n i : Nat) (s : State) : Host.Outcome State Fault Refusal :=
  match n with
  | 0 => .next s
  | k + 1 =>
    match posOfIndex i with
    | none => .refused .noSuchPosition
    | some p =>
      match pixelAt p s with
      | .next s' => pixelsFrom k (i + 1) s'
      | .fault e => .fault e
      | .refused r => .refused r

/-- PIXEL (R131): the whole pipeline for one pixel. -/
def execPixel (screen row col : Nat) (s : State) : Host.Outcome State Fault Refusal :=
  match posOf screen row col with
  | none => .refused .noSuchPosition
  | some p => pixelAt p s

/-- FRAME (R134): `frame_start`, then PIXEL at every position, each exactly once; the last one's store makes the phase
Done (R34). -/
def execFrame (screen3d : Nat) (s : State) : Host.Outcome State Fault Refusal :=
  match screenOf screen3d with
  | none => .refused .noSuchScreen
  | some t =>
    match frameStart t s with
    | .next s' => pixelsFrom Config.pixels 0 s'
    | .fault e => .fault e
    | .refused r => .refused r

end Sys2Proof.Machine
end

