-- ==== Sys2Proof/Machine/Dispatch.lean ====
section
/-! DEFINITION. Machine/Dispatch.lean: one arm per row of spec/opcode_table.json. -/

namespace Sys2Proof.Machine

def exec (i : Instr) (s : State) : Host.Outcome State Fault Refusal :=
  match i with
  | .decLt => Sys2Proof.Machine.execDecLt s
  | .decLb => Sys2Proof.Machine.execDecLb s
  | .decP3 => Sys2Proof.Machine.execDecP3 s
  | .subtKeep => Sys2Proof.Machine.execSubtKeep s
  | .subt3d => Sys2Proof.Machine.execSubt3d s
  | .subtFall => Sys2Proof.Machine.execSubtFall s
  | .subbKeep => Sys2Proof.Machine.execSubbKeep s
  | .subb3d => Sys2Proof.Machine.execSubb3d s
  | .subbBlack => Sys2Proof.Machine.execSubbBlack s
  | .resB3d => Sys2Proof.Machine.execResB3d s
  | .resBpp => Sys2Proof.Machine.execResBpp s
  | .resBgl => Sys2Proof.Machine.execResBgl s
  | .resFxnone => Sys2Proof.Machine.execResFxnone s
  | .resFxnoneM2 => Sys2Proof.Machine.execResFxnoneM2 s
  | .resFxalpha => Sys2Proof.Machine.execResFxalpha s
  | .resFxapass => Sys2Proof.Machine.execResFxapass s
  | .resFxapassM2 => Sys2Proof.Machine.execResFxapassM2 s
  | .resFxup => Sys2Proof.Machine.execResFxup s
  | .resFxupM2 => Sys2Proof.Machine.execResFxupM2 s
  | .resFxdown => Sys2Proof.Machine.execResFxdown s
  | .resFxdownM2 => Sys2Proof.Machine.execResFxdownM2 s
  | .mbNone => Sys2Proof.Machine.execMbNone s
  | .mbUp => Sys2Proof.Machine.execMbUp s
  | .mbDown => Sys2Proof.Machine.execMbDown s
  | .pixel screen row col => Sys2Proof.Machine.execPixel screen row col s
  | .frame screen3d => Sys2Proof.Machine.execFrame screen3d s

end Sys2Proof.Machine
end

