-- ==== Sys2Proof/Machine/Select.lean ====
section
/-! DEFINITION. Machine/Select.lean: what the next step is. A pending move of the host or of the scheduler comes first
(`State.moves`); with none pending the machine waits while Idle or Done (spec/10_state.md rule R34) and while Run goes on by
itself: the current invocation in flight runs its next line, else the first waiting one does, else the lowest position not yet
begun runs whole. R25 leaves that order open; D14 gives the upward order of whole positions, and the precedence of invocations
in flight is a DESIGN CHOICE (log 8). The lines of a split invocation follow
spec/44_pixel_and_frame.md rule R131; each operation is selected by decoding the word or key its stage reads (spec/30_encoding.md rules R69 to R73). -/

namespace Sys2Proof.Machine

/-- The next line of an invocation (R131). -/
inductive Line where
  | fetch
  | operation (f : KeyFormat) (w : BitVec 32)
  | store
  deriving DecidableEq, Repr

/-- The line that is due: the first of R131 whose latch holds no value yet. Each latch is written once, in the order fetch,
decode, substitute, resolve, brightness, store (R22). -/
def nextLine (l : Latches) : Line :=
  match l.wt, l.wb, l.w3, l.cf with
  | some wt, some wb, some w3, some cf =>
    match l.lt, l.lb, l.p3 with
    | none, _, _ => .operation .layerT wt
    | some _, none, _ => .operation .layerB wb
    | some _, some _, none => .operation .p3d w3
    | some lt, some lb, some p3 =>
      if l.st.isNone then .operation .subkeyT (subKey lt p3)
      else if l.sb.isNone then .operation .subkeyB (subKey lb p3)
      else if l.cc.isNone then .operation .reskey (resKey lt lb cf)
      else if l.oc.isNone then .operation .mbkey (mbKey cf)
      else .store
  | _, _, _, _ => .fetch

/-- Why a selecting word is refused. -/
def refusalOf (e : Reject) : Refusal :=
  match e with
  | .badModeCode => .badModeCode
  | .noSuchPosition => .noSuchPosition
  | .tooWide _ => .selectsNothing
  | .noRow _ => .selectsNothing

/-- A step: one operation of the table run in a state, or an outcome already settled (a host move, a fetch, a store). -/
inductive Selection where
  | run (i : Instr) (s : State)
  | settled (o : Host.Outcome State Fault Refusal)

/-- The next line of the current invocation. -/
def selectLine (s : State) : Selection :=
  match s.cur with
  | none => .settled (.fault .noInvocation)
  | some inv =>
    match nextLine inv.latches with
    | .fetch => .settled (fetchCur s)
    | .store => .settled (storeCur s)
    | .operation f w =>
      match decode f w with
      | .ok i => .run i s
      | .error e => .settled (.refused (refusalOf e))

/-- PIXEL at a position, as an operation of the table. -/
def pixelInstr (p : Pos) : Instr := .pixel p.screen.val p.row.val p.col.val

/-- A move of the host or of the scheduler, in a state it has been taken out of. -/
def selectMove (m : Move) (s : State) : Selection :=
  match m with
  | .writeTop p w => .settled (hostWrite (writeTop p w) s)
  | .writeBot p w => .settled (hostWrite (writeBot p w) s)
  | .writeG3d row col w => .settled (hostWrite (writeG3d row col w) s)
  | .writeCfg screen row c => .settled (hostWrite (writeCfg screen row c) s)
  | .writeCfgCodes screen row c => .settled (writeCfgCodes screen row c s)
  | .frameStart t => .settled (frameStart t s)
  | .frameAck => .settled (frameAck s)
  | .readOut y col => .settled (presentRead y col s)
  | .compositeFrame t => .run (.frame t.val) s
  | .runPixel p => .run (pixelInstr p) s
  | .beginPixel p => .settled (beginAt p s)
  | .advance p =>
    match selectAt p s with
    | none => .settled (.refused .notEnabled)
    | some s' => selectLine s'

/-- The machine's own next step, no move pending. Idle and Done wait (R34). While Run, R25 leaves the order open and D14 lets a
sequential simulator go upward over the positions not yet begun. DESIGN CHOICE (log 8), safe: where split invocations are in flight
(R137), the current one goes on; with none current the head of `waiting` goes on, which of those waiting is the one that was current
last (`inFlight`); and both come before any position not yet begun. -/
def selectOwn (s : State) : Selection :=
  match s.phase with
  | .idle => .settled (.next s)
  | .done => .settled (.next s)
  | .run =>
    match s.cur with
    | some _ => selectLine s
    | none =>
      match s.waiting with
      | inv :: rest => selectLine { s with cur := some inv, waiting := rest }
      | [] =>
        match posOfIndex (lowestFree 0 s.started) with
        | some p => .run (pixelInstr p) s
        | none => .settled (.refused .notEnabled)

/-- The next step of a state. -/
def select (s : State) : Selection :=
  match s.moves with
  | m :: ms => selectMove m { s with moves := ms }
  | [] => selectOwn s

/-! ## Where a bare word of the table is placed to run next -/

/-- The position a placed word runs at: the first one. -/
def firstPos : Pos := { screen := 0, row := 0, col := 0 }

/-- A layer pixel of no colour with the given flags and mask. -/
def flagsPixel (d a p : Bool) (m : BitVec 6) : LayerPixel :=
  { color := ⟨0, 0, 0⟩, is3dSourced := d, alphaBlendEnabled := a, usesPerPixelCoefficient := p, perPixelCoefficient := 0,
    targetMask := m }

/-- A mask that meets the mask 1 exactly when `b` is set. -/
def maskIf (b : Bool) : BitVec 6 := if b then 1 else 0

/-- A record with every field 0 or None, but for the effect and the two target masks. -/
def effectRec (e : Effect) (target1 target2 : BitVec 6) : CfgRec :=
  { masterBrightnessFactor := 0, masterBrightnessMode := .none, effectSelect := e, target1Mask := target1, target2Mask := target2,
    blendCoeffA := 0, blendCoeffB := 0 }

/-- Latches as they stand after the decoder stage: the words of these pixels under a layout, and the pixels. -/
def decodedLatches (L : Config.LayerLayout) (lt lb : LayerPixel) (p3 : Pixel3D) (cf : CfgRec) : Latches :=
  { Latches.empty with
    wt := some (encodeLayer L lt)
    wb := some (encodeLayer L lb)
    w3 := some (encodeP3d p3)
    cf := some cf
    lt := some lt
    lb := some lb
    p3 := some p3 }

/-- Latches under which the stage that reads a key of this format is due and forms the key `w`: the layer word itself, or
decoded pixels whose flags are the key's bits. -/
def latchesFor (L : Config.LayerLayout) (f : KeyFormat) (w : BitVec 32) : Latches :=
  let fetched : Latches := { Latches.empty with wt := some w, wb := some 0, w3 := some 0, cf := some (effectRec .none 0 0) }
  match f with
  | .subkeyT =>
    decodedLatches L (flagsPixel (w.getLsbD 1) false false 0) (flagsPixel false false false 0)
      { color := ⟨0, 0, 0⟩, alpha := if w.getLsbD 0 then 0 else 31 } (effectRec .none 0 0)
  | .reskey =>
    { decodedLatches L (flagsPixel (w.getLsbD 6) (w.getLsbD 5) (w.getLsbD 4) (maskIf (w.getLsbD 3)))
        (flagsPixel false false false (maskIf (w.getLsbD 2))) { color := ⟨0, 0, 0⟩, alpha := 0 }
        (effectRec (Effect.ofCode (w.extractLsb' 0 2)) 1 1) with
      st := some black
      sb := some black }
  | _ => fetched

/-- A frame in progress in which the invocation at the first position has these latches and is next to run. -/
def withLatches (l : Latches) (s : State) : State :=
  { markStarted firstPos s with phase := .run, screen3d := some 0, cur := some { pos := firstPos, latches := l }, waiting := [], moves := [] }

/-- A frame in progress whose next step is PIXEL at a position, with zero words and an all-default record to fetch there. -/
def withPixelDue (p : Pos) (s : State) : State :=
  { s with
    phase := .run
    screen3d := some 0
    mem := writeTop p 0 (writeBot p 0 (writeG3d p.row p.col 0 (writeCfg p.screen p.row (effectRec .none 0 0) s.mem)))
    started := []
    cur := none
    waiting := []
    moves := [.runPixel p] }

/-- The state in which a word of a format is the next to run. -/
def placeWord (f : KeyFormat) (w : BitVec 32) (s : State) : State :=
  match f with
  | .position =>
    match posOfIndex w.toNat with
    | some p => withPixelDue p s
    | none => s
  | _ => withLatches (latchesFor s.layout f w) s

end Sys2Proof.Machine
end

