-- ==== Sys2Proof/Machine/Step.lean ====
section
/-! DEFINITION. Machine/Step.lean: one step. `select` says what is next; an operation of the table is run by `exec`. -/

namespace Sys2Proof.Machine

/-- What a selection does: an operation of the table is run by `exec`. -/
def runSelection (sel : Selection) : Host.Outcome State Fault Refusal :=
  match sel with
  | .run i s => exec i s
  | .settled o => o

/-- One step of the machine. -/
def step (s : State) : Host.Outcome State Fault Refusal := runSelection (select s)

/-- The state with the word `w` of spec/opcode_table.json placed where the next step selects its operation (log 10). -/
def State.withFetchWord (s : State) (nbits w : Nat) : State :=
  match tableFormat nbits with
  | none => s
  | some f => placeWord f (BitVec.ofNat 32 w) s

end Sys2Proof.Machine
end

