-- ==== Sys2Proof/Safety.lean ====
section
/-! DEFINITION. Safety.lean: the terms claims are stated in: which latches an operation reads and writes, when an input frame
is complete, what an invocation's latches must agree with, and the invariant of the machine (`FrameInv`): in every phase,
what has been computed so far is what the frame's inputs determine. -/

namespace Sys2Proof.Machine

/-! ## Latches by name -/

/-- Does the latch hold a value? (R22) -/
def Latches.holds (l : Latches) : LatchName → Bool
  | .wt => l.wt.isSome
  | .wb => l.wb.isSome
  | .w3 => l.w3.isSome
  | .cf => l.cf.isSome
  | .lt => l.lt.isSome
  | .lb => l.lb.isSome
  | .p3 => l.p3.isSome
  | .st => l.st.isSome
  | .sb => l.sb.isSome
  | .cc => l.cc.isSome
  | .oc => l.oc.isSome

/-- The latches with one of them emptied: two sets of latches with the same emptied rest differ in that latch at most. -/
def Latches.without (l : Latches) : LatchName → Latches
  | .wt => { l with wt := none }
  | .wb => { l with wb := none }
  | .w3 => { l with w3 := none }
  | .cf => { l with cf := none }
  | .lt => { l with lt := none }
  | .lb => { l with lb := none }
  | .p3 => { l with p3 := none }
  | .st => { l with st := none }
  | .sb => { l with sb := none }
  | .cc => { l with cc := none }
  | .oc => { l with oc := none }

/-- The latches a stage operation's pseudocode reads, in the order its rule's Operands line lists them (log 2); PIXEL and FRAME read none of the current
invocation's (R82 to R84, R91 to R96, R104 to R111, R121 to R123). -/
def latchReads : Instr → List LatchName
  | .decLt => [.wt]
  | .decLb => [.wb]
  | .decP3 => [.w3]
  | .subtKeep => [.lt]
  | .subt3d => [.p3]
  | .subtFall => [.lb]
  | .subbKeep => [.lb]
  | .subb3d => [.p3]
  | .subbBlack => []
  | .resB3d => [.st, .sb, .p3]
  | .resBpp => [.st, .sb, .lt]
  | .resBgl => [.st, .sb, .cf]
  | .resFxnone => [.st]
  | .resFxnoneM2 => [.st]
  | .resFxalpha => [.st, .sb, .cf]
  | .resFxapass => [.st]
  | .resFxapassM2 => [.st]
  | .resFxup => [.st, .cf]
  | .resFxupM2 => [.st, .cf]
  | .resFxdown => [.st, .cf]
  | .resFxdownM2 => [.st, .cf]
  | .mbNone => [.cc]
  | .mbUp => [.cc, .cf]
  | .mbDown => [.cc, .cf]
  | .pixel _ _ _ => []
  | .frame _ => []

/-- The one latch a stage operation writes; none for PIXEL and FRAME, which write no latch of the current invocation. -/
def latchWritten : Instr → Option LatchName
  | .decLt => some .lt
  | .decLb => some .lb
  | .decP3 => some .p3
  | .subtKeep => some .st
  | .subt3d => some .st
  | .subtFall => some .st
  | .subbKeep => some .sb
  | .subb3d => some .sb
  | .subbBlack => some .sb
  | .resB3d => some .cc
  | .resBpp => some .cc
  | .resBgl => some .cc
  | .resFxnone => some .cc
  | .resFxnoneM2 => some .cc
  | .resFxalpha => some .cc
  | .resFxapass => some .cc
  | .resFxapassM2 => some .cc
  | .resFxup => some .cc
  | .resFxupM2 => some .cc
  | .resFxdown => some .cc
  | .resFxdownM2 => some .cc
  | .mbNone => some .oc
  | .mbUp => some .oc
  | .mbDown => some .oc
  | .pixel _ _ _ => none
  | .frame _ => none

/-! ## Input frames -/

/-- The four input elements of a position hold the values `f` (R45, R130). -/
abbrev inputsAt (m : Memory) (p : Pos) (f : Fetched) : Prop :=
  readBuf m.top ((p.screen.val * 192 + p.row.val) * 256 + p.col.val) = some f.wt
    ∧ readBuf m.bot ((p.screen.val * 192 + p.row.val) * 256 + p.col.val) = some f.wb
    ∧ readBuf m.g3d (p.row.val * 256 + p.col.val) = some f.w3
    ∧ readBuf m.cfg (p.screen.val * 192 + p.row.val) = some f.cf

/-- Every input element holds a value (R134, R163). -/
def inputsComplete (m : Memory) : Prop := ∀ p : Pos, ∃ f : Fetched, inputsAt m p f

/-- No slot of the screen that is not `t` is 3D-sourced (R144). -/
def no3dOffScreen (L : Config.LayerLayout) (t : Screen) (m : Memory) : Prop :=
  flaggedOffScreen L t m.top = false ∧ flaggedOffScreen L t m.bot = false

/-- The same, said of the words themselves: the bit `L.d` (bit 23 in the default layout, D4, log 4) of every word on a screen
other than `t` is clear (R61, R144). -/
def noSlotOff (L : Config.LayerLayout) (t : Screen) (m : Memory) : Prop :=
  ∀ (p : Pos) (w : Word32), p.screen ≠ t →
    (readBuf m.top (posIndex p) = some w ∨ readBuf m.bot (posIndex p) = some w) → w.getLsbD L.d = false

/-- The four input buffers are the same (R48: a frame's snapshots). -/
def sameInputs (m n : Memory) : Prop := m.top = n.top ∧ m.bot = n.bot ∧ m.g3d = n.g3d ∧ m.cfg = n.cfg

/-- The value of `OUT` at a position, `OUT[192*s + r][x]` (R43). -/
def outAt (m : Memory) (p : Pos) : Option OutEl := readBuf m.out ((192 * p.screen.val + p.row.val) * 256 + p.col.val)

/-- The position has begun in this frame (R25). -/
def begun (s : State) (p : Pos) : Prop := readBuf s.started (posIndex p) = some ()

/-- A move that acknowledges a frame, and so lets another begin. -/
def Move.isAck : Move → Bool
  | .frameAck => true
  | _ => false

/-- The state with the current invocation's latches replaced. -/
def withCur (s : State) (inv : Invocation) (l : Latches) : State := { s with cur := some { inv with latches := l } }

/-! ## The spec's arithmetic, said directly -/

/-- The three channels of a raw colour over 63 (R68). -/
def over63 (c : RawColor) : Color :=
  { c0 := (c.r.toNat : Rat) / 63, c1 := (c.g.toNat : Rat) / 63, c2 := (c.b.toNat : Rat) / 63 }

/-- A value held to [0, 1]. -/
def unitRange (v : Rat) : Rat := max 0 (min 1 v)

/-- Two colours weighted and added, each channel held to [0, 1] once (R101). -/
def weighted (a b : Color) (cA cB : Rat) : Color :=
  { c0 := unitRange (a.c0 * cA + b.c0 * cB), c1 := unitRange (a.c1 * cA + b.c1 * cB), c2 := unitRange (a.c2 * cA + b.c2 * cB) }

/-- Each channel moved toward 1 by `f`, held to [0, 1] (R110, R112). -/
def towardWhite (c : Color) (f : Rat) : Color :=
  { c0 := unitRange (c.c0 + (1 - c.c0) * f), c1 := unitRange (c.c1 + (1 - c.c1) * f), c2 := unitRange (c.c2 + (1 - c.c2) * f) }

/-- Each channel moved toward 0 by `f`, held to [0, 1] (R111, R112). -/
def towardBlack (c : Color) (f : Rat) : Color :=
  { c0 := unitRange (c.c0 - c.c0 * f), c1 := unitRange (c.c1 - c.c1 * f), c2 := unitRange (c.c2 - c.c2 * f) }

/-- Every channel lies in [0, 1] (R21). -/
def inUnit (c : Color) : Prop := 0 ≤ c.c0 ∧ c.c0 ≤ 1 ∧ 0 ≤ c.c1 ∧ c.c1 ≤ 1 ∧ 0 ≤ c.c2 ∧ c.c2 ≤ 1

/-- The masks share a set bit (R10). -/
def meets (a b : BitVec 6) : Prop := ∃ i, a.getLsbD i = true ∧ b.getLsbD i = true

/-! ## The invariant -/

/-- All eleven latches of an invocation that fetched `f`, as the stages define them (R131, R133). -/
def fullLatches (L : Config.LayerLayout) (f : Fetched) : Latches :=
  let lt := decodeLayer L f.wt
  let lb := decodeLayer L f.wb
  let p3 := decodeP3d f.w3
  let st := substituteTop lt lb p3
  let sb := substituteBottom lb p3
  { wt := some f.wt, wb := some f.wb, w3 := some f.w3, cf := some f.cf, lt := some lt, lb := some lb, p3 := some p3,
    st := some st, sb := some sb, cc := some (resolve st sb lt lb p3 f.cf), oc := some (pixelOf L f) }

/-- Each latch holds no value or the value it has in `full`. -/
def Latches.within (l full : Latches) : Prop :=
  (l.wt = none ∨ l.wt = full.wt) ∧ (l.wb = none ∨ l.wb = full.wb) ∧ (l.w3 = none ∨ l.w3 = full.w3)
    ∧ (l.cf = none ∨ l.cf = full.cf) ∧ (l.lt = none ∨ l.lt = full.lt) ∧ (l.lb = none ∨ l.lb = full.lb)
    ∧ (l.p3 = none ∨ l.p3 = full.p3) ∧ (l.st = none ∨ l.st = full.st) ∧ (l.sb = none ∨ l.sb = full.sb)
    ∧ (l.cc = none ∨ l.cc = full.cc) ∧ (l.oc = none ∨ l.oc = full.oc)

/-- The latches of an invocation are true to the frame: empty, or what the fetched inputs determine so far (R22, R53). -/
def latchesTrue (L : Config.LayerLayout) (m : Memory) (inv : Invocation) : Prop :=
  inv.latches = Latches.empty ∨ ∃ f : Fetched, fetchAt m inv.pos = .ok f ∧ inv.latches.within (fullLatches L f)

/-- The invariant of the machine. Reset has it; every step keeps it. -/
structure FrameInv (s : State) : Prop where
  /-- the buffers are in canonical form, within the sizes of R40 -/
  memory : s.mem.wf
  /-- the set of begun positions is in canonical form and holds only positions (R24) -/
  begunForm : bufWf Config.pixels s.started
  /-- latches and positions exist only during a frame (R20(d), R162) -/
  noInvocation : s.phase ≠ .run → s.cur = none ∧ s.waiting = []
  /-- each invocation in flight has begun, and its latches are true to the frame -/
  flightTrue : ∀ inv ∈ inFlight s, begun s inv.pos ∧ latchesTrue s.layout s.mem inv
  /-- no position has two invocations (R25) -/
  onePerPosition : (inFlight s).Pairwise (fun a b => a.pos ≠ b.pos)
  /-- every invocation that has ended has stored `pixel` of its four inputs (R134, R135) -/
  stored : s.phase ≠ .idle → ∀ p : Pos, begun s p → (∀ inv ∈ inFlight s, inv.pos ≠ p) →
    ∃ f : Fetched, inputsAt s.mem p f ∧ outAt s.mem p = some (pixelOf s.layout f)
  /-- at Done every position has run (R34) -/
  doneComplete : s.phase = .done → ∀ p : Pos, begun s p
  /-- while Run some invocation is still to run or to end (R34) -/
  runUnfinished : s.phase = .run → ¬ (s.started.length = Config.pixels ∧ inFlight s = [])
  /-- a frame in progress has its argument, and no slot off its 3D screen is 3D-sourced (R144) -/
  screenArgument : s.phase ≠ .idle → ∃ t : Screen, s.screen3d = some t ∧ no3dOffScreen s.layout t s.mem
  /-- outside a frame there is no argument (R162) -/
  idleArgument : s.phase = .idle → s.screen3d = none

end Sys2Proof.Machine
end

