-- ==== Sys2Proof/Certificates/Slice0/Obligations.lean ====
section
/-! DEFINITION. Certificates/Slice0/Obligations.lean: the statements for the provers, taken from the numbered rules of spec/. -/

open Sys2Proof Sys2Proof.Machine

/-! ## Encoding and selection -/

/-- R82 to R84, R71, R73: words written out from the spec decode to what they stand for (V2, V8, V23, V27, X8). -/
def Obligations.SpecWordsDecode : Prop :=
  decodeLayer defaultLayout 0x87943081
      = { color := ⟨1, 2, 3⟩, is3dSourced := true, alphaBlendEnabled := true, usesPerPixelCoefficient := true,
          perPixelCoefficient := 5, targetMask := 0b100001 }
    ∧ decodeP3d 0x0041E50A = { color := ⟨10, 20, 30⟩, alpha := 16 }
    ∧ decode .reskey 0b1111101 = .ok .resB3d
    ∧ decode .reskey 0b0110100 = .ok .resBpp
    ∧ decode .subkeyB 0b11 = .ok .subbBlack
    ∧ decode .mbkey 0b10 = .ok .mbDown
    ∧ decode .mbkey 0b11 = .error .badModeCode

/-- R69 to R72: the rows of each key's table are disjoint and cover it, but for the reserved `MBKEY = 11`.
The spec marks the counting as derived; the code 3 is D7 (log 6). -/
def Obligations.EachKeyTakesOneRow : Prop :=
  (∀ k : BitVec 7, (table.filter fun row => row.takes .reskey (k.setWidth 32)).length = 1)
    ∧ (∀ k : BitVec 2, (table.filter fun row => row.takes .subkeyT (k.setWidth 32)).length = 1)
    ∧ (∀ k : BitVec 2, (table.filter fun row => row.takes .subkeyB (k.setWidth 32)).length = 1)
    ∧ (∀ k : BitVec 2, (table.filter fun row => row.takes .mbkey (k.setWidth 32)).length = if k = 3 then 0 else 1)

/-- Decoding the word of an operation gives that operation, operand and all (R24, R69 to R72).
The words of PIXEL and FRAME are the model's choice (log 21). -/
def Obligations.DecodeEncodeIdentity : Prop :=
  ∀ i : Instr, i.wellFormed = true → decode i.format (encode i) = .ok i

/-- A pixel word survives packing and unpacking under every layout that puts the fields on bits of their own (R61, R86, D4).
The positions are the spec's decision D4 and an argument of the decoder (log 4). -/
def Obligations.LayerRoundTripAnyLayout : Prop :=
  ∀ (L : Config.LayerLayout) (px : LayerPixel), L.Wf → decodeLayer L (encodeLayer L px) = px

/-- R86: decode after encode returns the record; encode after decode returns the word with the ignored bits cleared. -/
def Obligations.DecodeInvertsEncode : Prop :=
  (∀ px : LayerPixel, decodeLayer defaultLayout (encodeLayer defaultLayout px) = px)
    ∧ (∀ w : Word32, encodeLayer defaultLayout (decodeLayer defaultLayout w) = w &&& 0xFFBFFFFF)
    ∧ (∀ px : Pixel3D, decodeP3d (encodeP3d px) = px)
    ∧ (∀ w : Word32, encodeP3d (decodeP3d w) = w &&& 0x007FFFFF)
    ∧ (∀ px : LayerPixel, ∃ w, decodeLayer defaultLayout w = px)
    ∧ (∃ w v : Word32, w ≠ v ∧ decodeLayer defaultLayout w = decodeLayer defaultLayout v)
    ∧ (∃ w v : Word32, w ≠ v ∧ decodeP3d w = decodeP3d v)

/-- R103: the table of R71, read at the key of R70, follows the priority procedure: rule 1, then rule 2, then the effect. -/
def Obligations.TableFollowsPriority : Prop :=
  ∀ (lt lb : LayerPixel) (cf : CfgRec) (m1 m2 : Bool),
    (m1 = true ↔ meets lt.targetMask cf.target1Mask) → (m2 = true ↔ meets lb.targetMask cf.target2Mask) →
    decode .reskey (resKey lt lb cf) = .ok (
      if lt.is3dSourced = true ∧ m2 = true then .resB3d
      else if lt.alphaBlendEnabled = true ∧ m2 = true then
        if lt.usesPerPixelCoefficient = true then .resBpp else .resBgl
      else match cf.effectSelect with
        | .none => if m2 = true then .resFxnoneM2 else .resFxnone
        | .alphaBlend =>
          if m1 = true ∧ m2 = true then .resFxalpha else if m2 = true then .resFxapassM2 else .resFxapass
        | .brightnessUp => if m2 = true then .resFxupM2 else .resFxup
        | .brightnessDown => if m2 = true then .resFxdownM2 else .resFxdown)

/-- R66, R73, R146: the codes of the enumerations read back; the mode code 3, and only it, is refused.
The codes are the spec's decision D7; the packed record move is the model's choice (log 6). -/
def Obligations.PackedRecordRoundTrip : Prop :=
  (∀ c : CfgRec, decodeCfg (encodeCfg c) = some c)
    ∧ (∀ c : CfgCodes, decodeCfg c = none ↔ c.masterBrightnessMode = 3)
    ∧ (∀ c : CfgCodes, ∀ rec, decodeCfg c = some rec → encodeCfg rec = c)

/-! ## Stage 1: the decoder -/

/-- R82: DEC.LT is selected by every word of the top slot and writes its fields to LT, nothing else: under every layout (R61),
and with R82's own bits under the default one. That the layout is an argument is the spec's R7, R61 and D4; that it stands in
State, and that an overlapping or out-of-range one is not excluded, is the model's choice (log 4). -/
def Obligations.DecLtDecodesTopWord : Prop :=
  (∀ w : Word32, decode .layerT w = .ok .decLt)
    ∧ (∀ (s : State) (inv : Invocation) (w : Word32), s.cur = some inv → inv.latches.wt = some w →
      exec .decLt s = .next (withCur s inv { inv.latches with lt := some (
        { color := ⟨w.extractLsb' 0 6, w.extractLsb' 6 6, w.extractLsb' 12 6⟩
          perPixelCoefficient := w.extractLsb' s.layout.k 4
          is3dSourced := decide (w.extractLsb' s.layout.d 1 = 1)
          alphaBlendEnabled := decide (w.extractLsb' s.layout.a 1 = 1)
          usesPerPixelCoefficient := decide (w.extractLsb' s.layout.p 1 = 1)
          targetMask := w.extractLsb' s.layout.m 6 } : LayerPixel) }))
    ∧ ∀ (s : State) (inv : Invocation) (w : Word32), s.layout = defaultLayout → s.cur = some inv → inv.latches.wt = some w →
      exec .decLt s = .next (withCur s inv { inv.latches with lt := some (
        { color := ⟨w.extractLsb' 0 6, w.extractLsb' 6 6, w.extractLsb' 12 6⟩
          perPixelCoefficient := w.extractLsb' 18 4
          is3dSourced := decide (w.extractLsb' 23 1 = 1)
          alphaBlendEnabled := decide (w.extractLsb' 24 1 = 1)
          usesPerPixelCoefficient := decide (w.extractLsb' 25 1 = 1)
          targetMask := w.extractLsb' 26 6 } : LayerPixel) })

/-- R83: DEC.LB is selected by every word of the bottom slot and decodes it to LB by the same layout: whichever it is (R61), and
with R82's own bits under the default one. That the layout is an argument is the spec's R7, R61 and D4; that it stands in State,
and that an overlapping or out-of-range one is not excluded, is the model's choice (log 4). -/
def Obligations.DecLbDecodesBottomWord : Prop :=
  (∀ w : Word32, decode .layerB w = .ok .decLb)
    ∧ (∀ (s : State) (inv : Invocation) (w : Word32), s.cur = some inv → inv.latches.wb = some w →
      exec .decLb s = .next (withCur s inv { inv.latches with lb := some (
        { color := ⟨w.extractLsb' 0 6, w.extractLsb' 6 6, w.extractLsb' 12 6⟩
          perPixelCoefficient := w.extractLsb' s.layout.k 4
          is3dSourced := decide (w.extractLsb' s.layout.d 1 = 1)
          alphaBlendEnabled := decide (w.extractLsb' s.layout.a 1 = 1)
          usesPerPixelCoefficient := decide (w.extractLsb' s.layout.p 1 = 1)
          targetMask := w.extractLsb' s.layout.m 6 } : LayerPixel) }))
    ∧ ∀ (s : State) (inv : Invocation) (w : Word32), s.layout = defaultLayout → s.cur = some inv → inv.latches.wb = some w →
      exec .decLb s = .next (withCur s inv { inv.latches with lb := some (
        { color := ⟨w.extractLsb' 0 6, w.extractLsb' 6 6, w.extractLsb' 12 6⟩
          perPixelCoefficient := w.extractLsb' 18 4
          is3dSourced := decide (w.extractLsb' 23 1 = 1)
          alphaBlendEnabled := decide (w.extractLsb' 24 1 = 1)
          usesPerPixelCoefficient := decide (w.extractLsb' 25 1 = 1)
          targetMask := w.extractLsb' 26 6 } : LayerPixel) })

/-- R84: DEC.P3 is selected by every 3D word and writes its colour and alpha to P3. -/
def Obligations.DecP3Decodes3dWord : Prop :=
  (∀ w : Word32, decode .p3d w = .ok .decP3)
    ∧ ∀ (s : State) (inv : Invocation) (w : Word32), s.cur = some inv → inv.latches.w3 = some w →
      exec .decP3 s = .next (withCur s inv { inv.latches with p3 := some (
        { color := ⟨w.extractLsb' 0 6, w.extractLsb' 6 6, w.extractLsb' 12 6⟩, alpha := w.extractLsb' 18 5 } : Pixel3D) })

/-- R85: the colour scale: 63 gives 1, 0 gives 0, 32 gives 32/63, never v/255; strictly increasing, into [0, 1]. -/
def Obligations.ColourScaleIs63 : Prop :=
  norm6 63 = 1 ∧ norm6 0 = 0 ∧ norm6 32 = 32 / 63
    ∧ (∀ v : BitVec 6, norm6 v = (v.toNat : Rat) / 63)
    ∧ (∀ v w : BitVec 6, v.toNat < w.toNat → norm6 v < norm6 w)
    ∧ (∀ v w : BitVec 6, norm6 v = norm6 w → v = w)
    ∧ (∀ v : BitVec 6, 0 ≤ norm6 v ∧ norm6 v ≤ 1)

/-- R80: the three decodes of one pixel may be done in any order; R90: the two substitutions too. -/
def Obligations.IndependentOperationsCommute : Prop :=
  ∀ i j : Instr,
    ((i ∈ [Instr.decLt, .decLb, .decP3] ∧ j ∈ [Instr.decLt, .decLb, .decP3])
      ∨ (i ∈ [Instr.subtKeep, .subt3d, .subtFall] ∧ j ∈ [Instr.subbKeep, .subb3d, .subbBlack])
      ∨ (i ∈ [Instr.subbKeep, .subb3d, .subbBlack] ∧ j ∈ [Instr.subtKeep, .subt3d, .subtFall])) →
    ∀ s t u : State, exec i s = .next t → exec j t = .next u →
      ∃ t', exec j s = .next t' ∧ exec i t' = .next u

/-! ## Stage 2: substitution -/

/-- R91: SUBT.KEEP, selected by a top that is not 3D-sourced: its own colour over 63. -/
def Obligations.SubtKeepKeepsTopColour : Prop :=
  (∀ (lt : LayerPixel) (p3 : Pixel3D), lt.is3dSourced = false → decode .subkeyT (subKey lt p3) = .ok .subtKeep)
    ∧ ∀ (s : State) (inv : Invocation) (lt : LayerPixel), s.cur = some inv → inv.latches.lt = some lt →
      exec .subtKeep s = .next (withCur s inv { inv.latches with st := some (over63 lt.color) })

/-- R92: SUBT.3D, selected by a 3D-sourced top with alpha not 0: the 3D colour, whole. -/
def Obligations.Subt3dTakes3dColour : Prop :=
  (∀ (lt : LayerPixel) (p3 : Pixel3D), lt.is3dSourced = true → p3.alpha ≠ 0 →
      decode .subkeyT (subKey lt p3) = .ok .subt3d)
    ∧ ∀ (s : State) (inv : Invocation) (p3 : Pixel3D), s.cur = some inv → inv.latches.p3 = some p3 →
      exec .subt3d s = .next (withCur s inv { inv.latches with st := some (over63 p3.color) })

/-- R93: SUBT.FALL, selected by a 3D-sourced top with alpha 0: the bottom's decoded colour. -/
def Obligations.SubtFallTakesBottomColour : Prop :=
  (∀ (lt : LayerPixel) (p3 : Pixel3D), lt.is3dSourced = true → p3.alpha = 0 →
      decode .subkeyT (subKey lt p3) = .ok .subtFall)
    ∧ ∀ (s : State) (inv : Invocation) (lb : LayerPixel), s.cur = some inv → inv.latches.lb = some lb →
      exec .subtFall s = .next (withCur s inv { inv.latches with st := some (over63 lb.color) })

/-- R94: SUBB.KEEP, selected by a bottom that is not 3D-sourced. -/
def Obligations.SubbKeepKeepsBottomColour : Prop :=
  (∀ (lb : LayerPixel) (p3 : Pixel3D), lb.is3dSourced = false → decode .subkeyB (subKey lb p3) = .ok .subbKeep)
    ∧ ∀ (s : State) (inv : Invocation) (lb : LayerPixel), s.cur = some inv → inv.latches.lb = some lb →
      exec .subbKeep s = .next (withCur s inv { inv.latches with sb := some (over63 lb.color) })

/-- R95: SUBB.3D, selected by a 3D-sourced bottom with alpha not 0. -/
def Obligations.Subb3dTakes3dColour : Prop :=
  (∀ (lb : LayerPixel) (p3 : Pixel3D), lb.is3dSourced = true → p3.alpha ≠ 0 →
      decode .subkeyB (subKey lb p3) = .ok .subb3d)
    ∧ ∀ (s : State) (inv : Invocation) (p3 : Pixel3D), s.cur = some inv → inv.latches.p3 = some p3 →
      exec .subb3d s = .next (withCur s inv { inv.latches with sb := some (over63 p3.color) })

/-- R96: SUBB.BLACK, selected by a 3D-sourced bottom with alpha 0: black, no latch read. -/
def Obligations.SubbBlackWritesBlack : Prop :=
  (∀ (lb : LayerPixel) (p3 : Pixel3D), lb.is3dSourced = true → p3.alpha = 0 →
      decode .subkeyB (subKey lb p3) = .ok .subbBlack)
    ∧ ∀ (s : State) (inv : Invocation), s.cur = some inv →
      exec .subbBlack s = .next (withCur s inv { inv.latches with sb := some { c0 := 0, c1 := 0, c2 := 0 } })

/-- R97: the whole table of the stage; every channel is one of the 64 values n/63; the 3D pixel matters only to a slot
that is 3D-sourced.
The spec marks its last two properties as derived from R91 to R96. -/
def Obligations.SubstitutionTable : Prop :=
  ∀ (lt lb : LayerPixel) (p3 : Pixel3D),
    substituteTop lt lb p3
        = (if lt.is3dSourced = false then over63 lt.color else if p3.alpha = 0 then over63 lb.color else over63 p3.color)
      ∧ substituteBottom lb p3
        = (if lb.is3dSourced = false then over63 lb.color else if p3.alpha = 0 then ⟨0, 0, 0⟩ else over63 p3.color)
      ∧ (∃ a b c d e f : Fin 64,
          substituteTop lt lb p3 = ⟨(a.val : Rat) / 63, (b.val : Rat) / 63, (c.val : Rat) / 63⟩
            ∧ substituteBottom lb p3 = ⟨(d.val : Rat) / 63, (e.val : Rat) / 63, (f.val : Rat) / 63⟩)
      ∧ (lt.is3dSourced = false → lb.is3dSourced = false → ∀ q : Pixel3D,
          substituteTop lt lb q = substituteTop lt lb p3 ∧ substituteBottom lb q = substituteBottom lb p3)

/-! ## Stage 3: the resolver -/

/-- R104: RES.B3D, rule 1: weights alpha/31 and 1 - alpha/31. -/
def Obligations.ResB3dBlendsBy3dAlpha : Prop :=
  (∀ (lt lb : LayerPixel) (cf : CfgRec), lt.is3dSourced = true → meets lb.targetMask cf.target2Mask →
      decode .reskey (resKey lt lb cf) = .ok .resB3d)
    ∧ ∀ (s : State) (inv : Invocation) (st sb : Color) (p3 : Pixel3D), s.cur = some inv →
      inv.latches.st = some st → inv.latches.sb = some sb → inv.latches.p3 = some p3 →
      exec .resB3d s = .next (withCur s inv
        { inv.latches with cc := some (weighted st sb ((p3.alpha.toNat : Rat) / 31) (1 - (p3.alpha.toNat : Rat) / 31)) })

/-- R105: RES.BPP, rule 2 with the per-pixel coefficient: weights k/16 and 1 - k/16. -/
def Obligations.ResBppBlendsByPixelCoefficient : Prop :=
  (∀ (lt lb : LayerPixel) (cf : CfgRec), lt.is3dSourced = false → lt.alphaBlendEnabled = true →
      lt.usesPerPixelCoefficient = true → meets lb.targetMask cf.target2Mask →
      decode .reskey (resKey lt lb cf) = .ok .resBpp)
    ∧ ∀ (s : State) (inv : Invocation) (st sb : Color) (lt : LayerPixel), s.cur = some inv →
      inv.latches.st = some st → inv.latches.sb = some sb → inv.latches.lt = some lt →
      exec .resBpp s = .next (withCur s inv
        { inv.latches with
          cc := some (weighted st sb ((lt.perPixelCoefficient.toNat : Rat) / 16) (1 - (lt.perPixelCoefficient.toNat : Rat) / 16)) })

/-- R106: RES.BGL, rule 2 with the record's coefficients over 16, independent of each other. -/
def Obligations.ResBglBlendsByRecord : Prop :=
  (∀ (lt lb : LayerPixel) (cf : CfgRec), lt.is3dSourced = false → lt.alphaBlendEnabled = true →
      lt.usesPerPixelCoefficient = false → meets lb.targetMask cf.target2Mask →
      decode .reskey (resKey lt lb cf) = .ok .resBgl)
    ∧ ∀ (s : State) (inv : Invocation) (st sb : Color) (cf : CfgRec), s.cur = some inv →
      inv.latches.st = some st → inv.latches.sb = some sb → inv.latches.cf = some cf →
      exec .resBgl s = .next (withCur s inv
        { inv.latches with
          cc := some (weighted st sb ((cf.blendCoeffA.toNat : Rat) / 16) ((cf.blendCoeffB.toNat : Rat) / 16)) })

/-- R107: RES.FXNONE, both rows: the top colour unchanged. -/
def Obligations.ResFxnonePassesTop : Prop :=
  (∀ (lt lb : LayerPixel) (cf : CfgRec), cf.effectSelect = .none → ¬ meets lb.targetMask cf.target2Mask →
      decode .reskey (resKey lt lb cf) = .ok .resFxnone)
    ∧ (∀ (lt lb : LayerPixel) (cf : CfgRec), cf.effectSelect = .none → meets lb.targetMask cf.target2Mask →
      lt.is3dSourced = false → lt.alphaBlendEnabled = false → decode .reskey (resKey lt lb cf) = .ok .resFxnoneM2)
    ∧ ∀ (s : State) (inv : Invocation) (st : Color), s.cur = some inv → inv.latches.st = some st →
      exec .resFxnone s = .next (withCur s inv { inv.latches with cc := some st })
        ∧ exec .resFxnoneM2 s = .next (withCur s inv { inv.latches with cc := some st })

/-- R108: RES.FXALPHA, effect AlphaBlend with both masks matching: the record's coefficients. -/
def Obligations.ResFxalphaBlendsByRecord : Prop :=
  (∀ (lt lb : LayerPixel) (cf : CfgRec), cf.effectSelect = .alphaBlend → meets lt.targetMask cf.target1Mask →
      meets lb.targetMask cf.target2Mask → lt.is3dSourced = false → lt.alphaBlendEnabled = false →
      decode .reskey (resKey lt lb cf) = .ok .resFxalpha)
    ∧ ∀ (s : State) (inv : Invocation) (st sb : Color) (cf : CfgRec), s.cur = some inv →
      inv.latches.st = some st → inv.latches.sb = some sb → inv.latches.cf = some cf →
      exec .resFxalpha s = .next (withCur s inv
        { inv.latches with
          cc := some (weighted st sb ((cf.blendCoeffA.toNat : Rat) / 16) ((cf.blendCoeffB.toNat : Rat) / 16)) })

/-- R109: RES.FXAPASS, both rows: effect AlphaBlend without both masks matching passes the top colour. -/
def Obligations.ResFxapassPassesTop : Prop :=
  (∀ (lt lb : LayerPixel) (cf : CfgRec), cf.effectSelect = .alphaBlend → ¬ meets lb.targetMask cf.target2Mask →
      decode .reskey (resKey lt lb cf) = .ok .resFxapass)
    ∧ (∀ (lt lb : LayerPixel) (cf : CfgRec), cf.effectSelect = .alphaBlend → meets lb.targetMask cf.target2Mask →
      ¬ meets lt.targetMask cf.target1Mask → lt.is3dSourced = false → lt.alphaBlendEnabled = false →
      decode .reskey (resKey lt lb cf) = .ok .resFxapassM2)
    ∧ ∀ (s : State) (inv : Invocation) (st : Color), s.cur = some inv → inv.latches.st = some st →
      exec .resFxapass s = .next (withCur s inv { inv.latches with cc := some st })
        ∧ exec .resFxapassM2 s = .next (withCur s inv { inv.latches with cc := some st })

/-- R110: RES.FXUP, both rows: toward white by the record's one factor over 16, whatever the top's mask.
The clamp is the spec's decision D11 (log 18), the unmasked factor D22 (log 19). -/
def Obligations.ResFxupBrightens : Prop :=
  (∀ (lt lb : LayerPixel) (cf : CfgRec), cf.effectSelect = .brightnessUp → ¬ meets lb.targetMask cf.target2Mask →
      decode .reskey (resKey lt lb cf) = .ok .resFxup)
    ∧ (∀ (lt lb : LayerPixel) (cf : CfgRec), cf.effectSelect = .brightnessUp → meets lb.targetMask cf.target2Mask →
      lt.is3dSourced = false → lt.alphaBlendEnabled = false → decode .reskey (resKey lt lb cf) = .ok .resFxupM2)
    ∧ ∀ (s : State) (inv : Invocation) (st : Color) (cf : CfgRec), s.cur = some inv →
      inv.latches.st = some st → inv.latches.cf = some cf →
      exec .resFxup s
          = .next (withCur s inv { inv.latches with cc := some (towardWhite st ((cf.masterBrightnessFactor : Rat) / 16)) })
        ∧ exec .resFxupM2 s
          = .next (withCur s inv { inv.latches with cc := some (towardWhite st ((cf.masterBrightnessFactor : Rat) / 16)) })

/-- R111: RES.FXDOWN, both rows: toward black by the record's one factor over 16, whatever the top's mask.
The clamp is the spec's decision D11 (log 18), the unmasked factor D22 (log 19). -/
def Obligations.ResFxdownDarkens : Prop :=
  (∀ (lt lb : LayerPixel) (cf : CfgRec), cf.effectSelect = .brightnessDown → ¬ meets lb.targetMask cf.target2Mask →
      decode .reskey (resKey lt lb cf) = .ok .resFxdown)
    ∧ (∀ (lt lb : LayerPixel) (cf : CfgRec), cf.effectSelect = .brightnessDown → meets lb.targetMask cf.target2Mask →
      lt.is3dSourced = false → lt.alphaBlendEnabled = false → decode .reskey (resKey lt lb cf) = .ok .resFxdownM2)
    ∧ ∀ (s : State) (inv : Invocation) (st : Color) (cf : CfgRec), s.cur = some inv →
      inv.latches.st = some st → inv.latches.cf = some cf →
      exec .resFxdown s
          = .next (withCur s inv { inv.latches with cc := some (towardBlack st ((cf.masterBrightnessFactor : Rat) / 16)) })
        ∧ exec .resFxdownM2 s
          = .next (withCur s inv { inv.latches with cc := some (towardBlack st ((cf.masterBrightnessFactor : Rat) / 16)) })

/-- R112: the two brightness functions: below factor 1 no clamp acts, from 1 on they give white and black, so every factor
field of 16 or more behaves like 16.
The clamp is the spec's decision D11 (log 18). -/
def Obligations.BrightnessSaturatesAt16 : Prop :=
  ∀ c f : Rat, 0 ≤ c → c ≤ 1 → 0 ≤ f →
    (f ≤ 1 → upChannel f c = c + (1 - c) * f ∧ c ≤ upChannel f c ∧ upChannel f c ≤ 1
        ∧ downChannel f c = c - c * f ∧ 0 ≤ downChannel f c ∧ downChannel f c ≤ c)
      ∧ (1 ≤ f → upChannel f c = 1 ∧ downChannel f c = 0)
      ∧ ∀ n : Nat, 16 ≤ n → upChannel (coeff16 n) c = upChannel (coeff16 16) c
          ∧ downChannel (coeff16 n) c = downChannel (coeff16 16) c

/-- R114's blend linearity, and the convex blends of R104 and R105 never clamp.
That the clamp never acts is marked derived in R104 and R105. -/
def Obligations.ConvexBlendNeverClamps : Prop :=
  ∀ (a b : Color) (c : Rat), inUnit a → inUnit b → 0 ≤ c → c ≤ 1 →
    blend a b c (1 - c)
        = { c0 := a.c0 * c + b.c0 * (1 - c), c1 := a.c1 * c + b.c1 * (1 - c), c2 := a.c2 * c + b.c2 * (1 - c) }
      ∧ inUnit (blend a b c (1 - c)) ∧ blend a b 1 0 = a ∧ blend a b 0 1 = b
      ∧ blend a b (1 / 2) (1 / 2) = { c0 := (a.c0 + b.c0) / 2, c1 := (a.c1 + b.c1) / 2, c2 := (a.c2 + b.c2) / 2 }

/-! ## Stage 4: the brightness post-processor -/

/-- R121: MB.NONE, selected by the mode None: the three channels copied exactly, in [0, 1] or not, opacity 1. -/
def Obligations.MbNoneCopies : Prop :=
  (∀ cf : CfgRec, cf.masterBrightnessMode = .none → decode .mbkey (mbKey cf) = .ok .mbNone)
    ∧ ∀ (s : State) (inv : Invocation) (cc : Color), s.cur = some inv → inv.latches.cc = some cc →
      exec .mbNone s = .next (withCur s inv { inv.latches with oc := some { r := cc.c0, g := cc.c1, b := cc.c2, a := 1 } })

/-- R122: MB.UP, selected by the mode Up: toward white by the record's factor over 16, opacity 1.
The clamp is the spec's decision D11 (log 18), the unmasked factor D22 (log 19). -/
def Obligations.MbUpBrightens : Prop :=
  (∀ cf : CfgRec, cf.masterBrightnessMode = .up → decode .mbkey (mbKey cf) = .ok .mbUp)
    ∧ ∀ (s : State) (inv : Invocation) (cc : Color) (cf : CfgRec), s.cur = some inv →
      inv.latches.cc = some cc → inv.latches.cf = some cf →
      exec .mbUp s = .next (withCur s inv
        { inv.latches with
          oc := some { r := (towardWhite cc ((cf.masterBrightnessFactor : Rat) / 16)).c0
                       g := (towardWhite cc ((cf.masterBrightnessFactor : Rat) / 16)).c1
                       b := (towardWhite cc ((cf.masterBrightnessFactor : Rat) / 16)).c2
                       a := 1 } })

/-- R123: MB.DOWN, selected by the mode Down: toward black by the record's factor over 16, opacity 1.
The clamp is the spec's decision D11 (log 18), the unmasked factor D22 (log 19). -/
def Obligations.MbDownDarkens : Prop :=
  (∀ cf : CfgRec, cf.masterBrightnessMode = .down → decode .mbkey (mbKey cf) = .ok .mbDown)
    ∧ ∀ (s : State) (inv : Invocation) (cc : Color) (cf : CfgRec), s.cur = some inv →
      inv.latches.cc = some cc → inv.latches.cf = some cf →
      exec .mbDown s = .next (withCur s inv
        { inv.latches with
          oc := some { r := (towardBlack cc ((cf.masterBrightnessFactor : Rat) / 16)).c0
                       g := (towardBlack cc ((cf.masterBrightnessFactor : Rat) / 16)).c1
                       b := (towardBlack cc ((cf.masterBrightnessFactor : Rat) / 16)).c2
                       a := 1 } })

/-- R124: an AlphaBlend effect followed by master Up composes: blend, then blend + (1 - blend) * factor, for a factor field
of at most 16.
That the clamp does not act rests on D11 (log 18). -/
def Obligations.AlphaBlendThenMasterUpComposes : Prop :=
  ∀ (st sb : Color) (lt lb : LayerPixel) (p3 : Pixel3D) (cf : CfgRec),
    lt.is3dSourced = false → lt.alphaBlendEnabled = false → cf.effectSelect = .alphaBlend →
    meets lt.targetMask cf.target1Mask → meets lb.targetMask cf.target2Mask →
    cf.masterBrightnessMode = .up → cf.masterBrightnessFactor ≤ 16 →
    ∃ b : Color, b = weighted st sb ((cf.blendCoeffA.toNat : Rat) / 16) ((cf.blendCoeffB.toNat : Rat) / 16)
      ∧ masterBrightness (resolve st sb lt lb p3 cf) cf
        = { r := b.c0 + (1 - b.c0) * ((cf.masterBrightnessFactor : Rat) / 16)
            g := b.c1 + (1 - b.c1) * ((cf.masterBrightnessFactor : Rat) / 16)
            b := b.c2 + (1 - b.c2) * ((cf.masterBrightnessFactor : Rat) / 16)
            a := 1 }

/-! ## Stage operations together -/

/-- R14, R22, R162: a stage operation runs exactly when an invocation is current and every latch it reads holds a value;
otherwise it faults by the first latch that holds none, in the order of its rule's Operands line.
Which latch the fault names, in that order, and the fault outside an invocation, are the model's (log 2). -/
def Obligations.StageOperationsRunWhenOperandsHeld : Prop :=
  ∀ (i : Instr) (s : State), (latchWritten i).isSome →
    match s.cur with
    | none => exec i s = .fault .noInvocation
    | some inv =>
      match (latchReads i).find? (fun n => !inv.latches.holds n) with
      | some n => exec i s = .fault (.latchHoldsNoValue n)
      | none => ∃ t, exec i s = .next t

/-- R26: the frame of the 24 stage operations: only the destination latch of the current invocation changes. -/
def Obligations.StageOperationsChangeOneLatch : Prop :=
  ∀ (i : Instr) (s t : State) (d : LatchName), latchWritten i = some d → exec i s = .next t →
    ∃ inv l, s.cur = some inv ∧ t.cur = some { pos := inv.pos, latches := l }
      ∧ l.without d = inv.latches.without d ∧ l.holds d = true
      ∧ t.layout = s.layout ∧ t.phase = s.phase ∧ t.screen3d = s.screen3d ∧ t.mem = s.mem ∧ t.started = s.started ∧ t.waiting = s.waiting
      ∧ t.moves = s.moves ∧ t.shown = s.shown

/-! ## The pixel function -/

/-- R124: every output channel lies in [0, 1] and the opacity is 1, for all words and every record.
The spec marks the range as derived; it rests on the clamp of D11 (log 18). -/
def Obligations.PixelOutputInRange : Prop :=
  ∀ (L : Config.LayerLayout) (wt wb w3 : Word32) (cf : CfgRec),
    0 ≤ (pixel L wt wb w3 cf).r ∧ (pixel L wt wb w3 cf).r ≤ 1 ∧ 0 ≤ (pixel L wt wb w3 cf).g ∧ (pixel L wt wb w3 cf).g ≤ 1
      ∧ 0 ≤ (pixel L wt wb w3 cf).b ∧ (pixel L wt wb w3 cf).b ≤ 1 ∧ (pixel L wt wb w3 cf).a = 1

/-- R112, U1: a record's factor of 16 or more, 31 and above included, gives the output of 16.
The unmasked factor is the spec's decision D22 (log 19), the clamp D11 (log 18). -/
def Obligations.FactorAbove16ActsAs16 : Prop :=
  ∀ (L : Config.LayerLayout) (wt wb w3 : Word32) (cf : CfgRec), 16 ≤ cf.masterBrightnessFactor →
    pixel L wt wb w3 cf = pixel L wt wb w3 { cf with masterBrightnessFactor := 16 }

/-- R73: an ignored bit may hold 0 or 1 and the output is the same: bit 22 of the top word, the bits of a bottom word
that R63 names, bits 31:23 of the 3D word; the top's coefficient whenever RES.BPP is not selected. R84: when neither slot is
3D-sourced, the whole 3D word. The first clause says it with the default layout's bits, the others for every layout.
The positions of the ignored bits rest on D4 to D6 (log 4, log 5). -/
def Obligations.IgnoredBitsDoNotMatter : Prop :=
  (∀ (wt wt' wb wb' w3 w3' : Word32) (cf : CfgRec),
    wb &&& 0xFC83FFFF = wb' &&& 0xFC83FFFF → w3 &&& 0x007FFFFF = w3' &&& 0x007FFFFF →
    (wt &&& 0xFFBFFFFF = wt' &&& 0xFFBFFFFF
      ∨ wt &&& 0xFF83FFFF = wt' &&& 0xFF83FFFF
        ∧ decode .reskey (resKey (decodeLayer defaultLayout wt) (decodeLayer defaultLayout wb) cf) ≠ .ok .resBpp) →
    pixel defaultLayout wt wb w3 cf = pixel defaultLayout wt' wb' w3' cf)
    ∧ (∀ (L : Config.LayerLayout) (wt wt' wb wb' w3 w3' : Word32) (cf : CfgRec),
      (∀ b, b < 18 ∨ b = L.d ∨ L.m ≤ b ∧ b < L.m + 6 → wb.getLsbD b = wb'.getLsbD b) →
      (∀ b, b < 23 → w3.getLsbD b = w3'.getLsbD b) →
      (∀ b, b < 18 ∨ b = L.d ∨ b = L.a ∨ b = L.p ∨ L.m ≤ b ∧ b < L.m + 6 → wt.getLsbD b = wt'.getLsbD b) →
      (decode .reskey (resKey (decodeLayer L wt) (decodeLayer L wb) cf) = .ok .resBpp →
        ∀ b, L.k ≤ b → b < L.k + 4 → wt.getLsbD b = wt'.getLsbD b) →
      pixel L wt wb w3 cf = pixel L wt' wb' w3' cf)
    ∧ ∀ (L : Config.LayerLayout) (wt wb w3 w3' : Word32) (cf : CfgRec), wt.getLsbD L.d = false → wb.getLsbD L.d = false →
      pixel L wt wb w3 cf = pixel L wt wb w3' cf

/-! ## PIXEL and FRAME -/

/-- R130 to R132: PIXEL at a position that has not begun, its four input elements held, stores `pixel` of them in
`OUT[192*s + r][x]` and ends; the phase becomes Done exactly when it was the last.
The element of `G3D` rests on the remap of D10 (log 16); that a begun position is remembered is log 8. -/
def Obligations.PixelStoresPixelFunction : Prop :=
  ∀ (s : State) (p : Pos) (f : Fetched), s.phase = .run → readBuf s.started (posIndex p) = none → inputsAt s.mem p f →
    exec (.pixel p.screen.val p.row.val p.col.val) s
      = .next { s with
          mem := { s.mem with
            out := writeBuf s.mem.out ((192 * p.screen.val + p.row.val) * 256 + p.col.val) (pixel s.layout f.wt f.wb f.w3 f.cf) }
          started := writeBuf s.started (posIndex p) ()
          phase := if (writeBuf s.started (posIndex p) ()).length = 98304 ∧ s.cur = none ∧ s.waiting = [] then .done
                   else .run }

/-- R45, R46, R20: the frames of PIXEL and FRAME. PIXEL: one element of `OUT` changes, one position has begun, and nothing else
but the phase. FRAME: the inputs, the moves and what PRESENT has read are unchanged; its argument is held, no invocation is
left, every position has begun and the phase is Done.
`started`, `moves` and `shown` are the model's own fields (log 8, 9, 17). -/
def Obligations.PixelAndFrameChangeOnlyOutput : Prop :=
  (∀ (s t : State) (screen row col : Nat), exec (.pixel screen row col) s = .next t →
    sameInputs t.mem s.mem
      ∧ (∀ a, a ≠ (192 * screen + row) * 256 + col → readBuf t.mem.out a = readBuf s.mem.out a)
      ∧ (∀ a, a ≠ (screen * 192 + row) * 256 + col → readBuf t.started a = readBuf s.started a)
      ∧ t.layout = s.layout ∧ t.cur = s.cur ∧ t.waiting = s.waiting ∧ t.moves = s.moves ∧ t.shown = s.shown
      ∧ t.screen3d = s.screen3d
      ∧ (t.phase = s.phase ∨ t.phase = .done))
    ∧ ∀ (s t : State) (n : Nat), exec (.frame n) s = .next t →
      sameInputs t.mem s.mem ∧ t.layout = s.layout ∧ t.moves = s.moves ∧ t.shown = s.shown ∧ t.cur = none ∧ t.waiting = []
        ∧ t.phase = .done ∧ (∃ screen : Screen, screen.val = n ∧ t.screen3d = some screen) ∧ ∀ p : Pos, begun t p

/-- R161: PIXEL at a position one of whose input elements holds no value faults, naming an element that holds none; and the
frame is never Done.
That unwritten elements hold no value is D16 (log 20); when the fault comes is the model's choice (log 22). -/
def Obligations.MissingInputFaults : Prop :=
  (∀ (s : State) (p : Pos), s.phase = .run → readBuf s.started (posIndex p) = none → (¬ ∃ f, inputsAt s.mem p f) →
    (∃ a, (exec (.pixel p.screen.val p.row.val p.col.val) s = .fault (.inputHoldsNoValue .top a) ∧ readBuf s.mem.top a = none)
      ∨ (exec (.pixel p.screen.val p.row.val p.col.val) s = .fault (.inputHoldsNoValue .bot a) ∧ readBuf s.mem.bot a = none)
      ∨ (exec (.pixel p.screen.val p.row.val p.col.val) s = .fault (.inputHoldsNoValue .g3d a) ∧ readBuf s.mem.g3d a = none)
      ∨ (exec (.pixel p.screen.val p.row.val p.col.val) s = .fault (.inputHoldsNoValue .cfg a) ∧ readBuf s.mem.cfg a = none)))
    ∧ ∀ (s : State) (t : Screen) (p : Pos), (¬ ∃ f, inputsAt s.mem p f) → ∀ u, exec (.frame t.val) s ≠ .next u

/-- R25, R137: an invocation that has begun, and any outside Run, is not enabled; there is no position 98304 (R25) and no
third screen (R42).
The refusals' names are the model's choice (log 14, log 15). -/
def Obligations.NotEnabledIsRefused : Prop :=
  (∀ (s : State) (p : Pos), (s.phase ≠ .run ∨ begun s p) →
      exec (.pixel p.screen.val p.row.val p.col.val) s = .refused .notEnabled
        ∧ beginAt p s = .refused .notEnabled)
    ∧ (∀ (s : State) (screen row col : Nat), (Instr.pixel screen row col).wellFormed = false →
      exec (.pixel screen row col) s = .refused .noSuchPosition)
    ∧ (∀ (s : State) (n : Nat), (Instr.frame n).wellFormed = false → exec (.frame n) s = .refused .noSuchScreen)

/-- R134: FRAME from Idle, every input element held and no slot 3D-sourced off its screen, reaches Done with
`OUT[192*s + r][x] = pixel(TOP[s][r][x], BOT[s][r][x], G3D[r][x], CFG[s][r])` at every position, the inputs unchanged.
The element of `G3D` rests on the remap of D10 (log 16), the bit of the layer word that tells a 3D-sourced slot on the layout (R61;
bit 23 by default, D4, log 4); the set of begun positions is the model's (log 8). -/
def Obligations.FrameCompositesEveryPixel : Prop :=
  ∀ (s : State) (t : Screen), s.phase = .idle → s.mem.wf → noSlotOff s.layout t s.mem → inputsComplete s.mem →
    ∃ (out : Buf OutEl) (started : Buf Unit),
      exec (.frame t.val) s = .next { s with
        phase := .done, screen3d := some t, mem := { s.mem with out := out }, started := started, cur := none, waiting := [] }
      ∧ (∀ p : Pos, readBuf started (posIndex p) = some ())
      ∧ ∀ (p : Pos) (f : Fetched), inputsAt s.mem p f →
        readBuf out ((192 * p.screen.val + p.row.val) * 256 + p.col.val) = some (pixel s.layout f.wt f.wb f.w3 f.cf)

/-- R144: a 3D-sourced slot on the screen that is not SCREEN_3D refuses the frame, however it is started.
The bit that tells a 3D-sourced slot is the layout's `d` (R61; bit 23 by default, D4, log 4); which elements the check sees is the
model's choice (log 11). -/
def Obligations.OffScreen3dRefused : Prop :=
  ∀ (s : State) (t : Screen) (p : Pos) (w : Word32), s.phase = .idle → p.screen ≠ t → w.getLsbD s.layout.d = true →
    (readBuf s.mem.top (posIndex p) = some w ∨ readBuf s.mem.bot (posIndex p) = some w) →
    exec (.frame t.val) s = .refused .flag3DOffScreen
      ∧ ∀ ms, step { s with moves := .frameStart t :: ms } = .refused .flag3DOffScreen

/-! ## The step -/

/-- A step runs the operation that the word its stage reads selects: the next move taken off first, an invocation in flight
made current first (R71, R131); a run choice runs PIXEL, a composite choice FRAME.
What a step is, and the moves it takes from the state, are the model's choice (log 7, log 9). So is the second clause's order (R25 leaves
it open): with no move pending and none current, the head of `waiting` is resumed (log 8). -/
def Obligations.StepRunsSelectedOperation : Prop :=
  (∀ (s : State) (inv : Invocation) (f : KeyFormat) (w : BitVec 32) (i : Instr), s.phase = .run → s.moves = [] →
      s.cur = some inv → nextLine inv.latches = .operation f w → decode f w = .ok i → step s = exec i s)
    ∧ (∀ (s : State) (inv : Invocation) (rest : List Invocation) (f : KeyFormat) (w : BitVec 32) (i : Instr), s.phase = .run →
      s.moves = [] → s.cur = none → s.waiting = inv :: rest → nextLine inv.latches = .operation f w → decode f w = .ok i →
      step s = exec i { s with cur := some inv, waiting := rest })
    ∧ (∀ (s u : State) (inv : Invocation) (ms : List Move) (p : Pos) (f : KeyFormat) (w : BitVec 32) (i : Instr),
      s.moves = .advance p :: ms → selectAt p { s with moves := ms } = some u → u.cur = some inv →
      nextLine inv.latches = .operation f w → decode f w = .ok i → step s = exec i u)
    ∧ (∀ (s : State) (ms : List Move) (p : Pos), s.moves = .runPixel p :: ms →
      step s = exec (.pixel p.screen.val p.row.val p.col.val) { s with moves := ms })
    ∧ (∀ (s : State) (ms : List Move) (t : Screen), s.moves = .compositeFrame t :: ms →
      step s = exec (.frame t.val) { s with moves := ms })

/-- R137: the split of an invocation into its lines (fetch, three decodes, two substitutions, resolve, brightness, store) is
unobservable: nine steps from its beginning give the state PIXEL gives in one.
The lines' order within one invocation is the model's choice (log 7), and so is it that with no move pending all nine steps go to the
invocation just begun, whichever others wait (log 8; R25 leaves the order open); the spec marks the claim as derived. -/
def Obligations.SplitInvocationEqualsPixel : Prop :=
  ∀ (s t : State) (p : Pos), s.moves = [] → s.cur = none →
    exec (.pixel p.screen.val p.row.val p.col.val) s = .next t →
    ∃ u, beginAt p s = .next u ∧ Sys2Proof.core.run 9 u = .next t

/-- R25, R134: FRAME is the frame started and its 98304 positions run one by one, upward.
The upward order is D14 (log 8). -/
def Obligations.FrameEqualsItsSteps : Prop :=
  ∀ (s t : State) (screen : Screen), s.moves = [] → exec (.frame screen.val) s = .next t →
    ∃ u, frameStart screen s = .next u ∧ Sys2Proof.core.run 98304 u = .next t

/-- R137, R171: left to itself a frame in progress runs on and is Done after exactly as many steps as positions are left.
The order the machine takes by itself is D14 (log 8). -/
def Obligations.FrameEndsAfterItsPixels : Prop :=
  ∀ s : State, FrameInv s → s.phase = .run → s.moves = [] → inFlight s = [] → inputsComplete s.mem →
    (∀ k, k < 98304 - s.started.length → ∃ u, Sys2Proof.core.run k s = .next u ∧ u.phase = .run)
      ∧ ∃ t, Sys2Proof.core.run (98304 - s.started.length) s = .next t ∧ t.phase = .done

/-- Reset has the invariant of the machine, under every layout.
The reset state is D16 (log 20). -/
def Obligations.ResetHasFrameInv : Prop :=
  FrameInv State.reset ∧ ∀ L : Config.LayerLayout, FrameInv { State.reset with layout := L }

/-- R22, R34, R135, R144: every step keeps the invariant of the machine.
What the invariant says of `started` and of the invocations in flight is the model's (log 8). -/
def Obligations.StepKeepsFrameInv : Prop :=
  ∀ s t : State, FrameInv s → step s = .next t → FrameInv t

/-- Every step keeps the five buffers in canonical form, from every state.
The form is the model's choice (log 1). -/
def Obligations.StepKeepsMemoryCanonical : Prop :=
  ∀ s t : State, s.mem.wf → step s = .next t → t.mem.wf

/-- R135: however a frame came to be Done, `OUT` at every position is `pixel` of the four snapshot elements.
The spec marks it as derived from R133, R134; the remap is D10 (log 16). -/
def Obligations.DoneOutputIsPixelFunction : Prop :=
  ∀ (s t : State) (k : Nat), FrameInv s → Sys2Proof.core.run k s = .next t → t.phase = .done →
    ∀ p : Pos, ∃ f : Fetched, inputsAt t.mem p f ∧ outAt t.mem p = some (pixel t.layout f.wt f.wb f.w3 f.cf)

/-- R136: any two executions of a frame on the same snapshots, whatever their order, interleaving or split, end with identical
`OUT` buffers.
The spec marks it as derived from R135. -/
def Obligations.AnyScheduleSameOutput : Prop :=
  ∀ (s s' t t' : State) (k k' : Nat), FrameInv s → FrameInv s' → s.phase ≠ .idle → s'.phase ≠ .idle →
    s.layout = s'.layout → sameInputs s.mem s'.mem → (∀ m ∈ s.moves, m.isAck = false) → (∀ m ∈ s'.moves, m.isAck = false) →
    Sys2Proof.core.run k s = .next t → Sys2Proof.core.run k' s' = .next t' → t.phase = .done → t'.phase = .done →
    t.mem.out = t'.mem.out

/-- R34: the only ways the phase changes: frame_start, the last store, frame_ack; and FRAME as one step from Idle to Done.
The phases are the spec's decision D15; FRAME as one step is log 7. -/
def Obligations.PhaseChangesOnlyByHandshake : Prop :=
  ∀ s t : State, step s = .next t → t.phase ≠ s.phase →
    (s.phase = .idle ∧ t.phase = .run ∧ ∃ screen ms, s.moves = .frameStart screen :: ms)
      ∨ (s.phase = .run ∧ t.phase = .done ∧ t.started.length = 98304 ∧ t.cur = none ∧ t.waiting = [])
      ∨ (s.phase = .done ∧ t.phase = .idle ∧ ∃ ms, s.moves = .frameAck :: ms)
      ∨ (s.phase = .idle ∧ t.phase = .done ∧ ∃ screen ms, s.moves = .compositeFrame screen :: ms)

/-- R48: outside Idle no step changes an input element; R166: between Done and the acknowledgement no step writes any buffer,
so PRESENT reads a stable one.
That a write at Done is refused is the model's choice (log 12). -/
def Obligations.BuffersFrozenOutsideTheirPhase : Prop :=
  (∀ s t : State, step s = .next t → s.phase ≠ .idle → sameInputs t.mem s.mem)
    ∧ ∀ s t : State, FrameInv s → step s = .next t → s.phase = .done → t.mem = s.mem

/-! ## The host's moves -/

/-- R145, R146: a host write of an input element in phase Run, frame_start outside Idle, a read of `OUT` outside Done, and the
mode code 3 are each refused by name.
Where two refusals apply R148 lets either be reported; that the mode code 3 is refused in every phase is the model's choice (log 6), and
that a start outside Idle is told before an off-screen flag (log 11). The moves are the model's (log 9). -/
def Obligations.BrokenDutiesRefused : Prop :=
  ∀ (s : State) (ms : List Move),
    (s.phase = .run →
      (∀ p w, step { s with moves := .writeTop p w :: ms } = .refused .inputWrittenDuringRun)
        ∧ (∀ p w, step { s with moves := .writeBot p w :: ms } = .refused .inputWrittenDuringRun)
        ∧ (∀ row col w, step { s with moves := .writeG3d row col w :: ms } = .refused .inputWrittenDuringRun)
        ∧ (∀ screen row c, step { s with moves := .writeCfg screen row c :: ms } = .refused .inputWrittenDuringRun)
        ∧ (∀ screen row c, c.masterBrightnessMode ≠ 3 →
            step { s with moves := .writeCfgCodes screen row c :: ms } = .refused .inputWrittenDuringRun))
      ∧ (s.phase ≠ .idle → ∀ screen, step { s with moves := .frameStart screen :: ms } = .refused .startNotIdle
          ∧ step { s with moves := .compositeFrame screen :: ms } = .refused .startNotIdle)
      ∧ (s.phase ≠ .done → ∀ y col, step { s with moves := .readOut y col :: ms } = .refused .readBeforeDone)
      ∧ (∀ screen row c, c.masterBrightnessMode = 3 →
          step { s with moves := .writeCfgCodes screen row c :: ms } = .refused .badModeCode)

/-- R41 to R43, R147: a host write while Idle lands in its one element and nowhere else; a 3D element is the one both screens'
positions at its row and column read (R42).
The index order is D9, the remap D10 (log 16); the moves are the model's (log 9). That a record presented as numeric codes lands the
same rests on the codes of D7 (R66) and on the packed interface as a host move, which is the model's choice (log 6). -/
def Obligations.HostWritesLand : Prop :=
  ∀ (s : State) (ms : List Move), s.phase = .idle →
    (∀ (p : Pos) (w : Word32), ∃ b, step { s with moves := .writeTop p w :: ms } = .next { s with moves := ms, mem := { s.mem with top := b } }
        ∧ ∀ a, readBuf b a = if a = (p.screen.val * 192 + p.row.val) * 256 + p.col.val then some w else readBuf s.mem.top a)
      ∧ (∀ (p : Pos) (w : Word32), ∃ b, step { s with moves := .writeBot p w :: ms } = .next { s with moves := ms, mem := { s.mem with bot := b } }
        ∧ ∀ a, readBuf b a = if a = (p.screen.val * 192 + p.row.val) * 256 + p.col.val then some w else readBuf s.mem.bot a)
      ∧ (∀ (row : Row) (col : Col) (w : Word32), ∃ b,
          step { s with moves := .writeG3d row col w :: ms } = .next { s with moves := ms, mem := { s.mem with g3d := b } }
        ∧ (∀ a, readBuf b a = if a = row.val * 256 + col.val then some w else readBuf s.mem.g3d a)
        ∧ ∀ (screen : Screen) (f : Fetched), inputsAt { s.mem with g3d := b } ⟨screen, row, col⟩ f → f.w3 = w)
      ∧ (∀ (screen : Screen) (row : Row) (c : CfgRec), ∃ b,
          step { s with moves := .writeCfg screen row c :: ms } = .next { s with moves := ms, mem := { s.mem with cfg := b } }
        ∧ step { s with moves := .writeCfgCodes screen row (encodeCfg c) :: ms }
            = .next { s with moves := ms, mem := { s.mem with cfg := b } }
        ∧ ∀ a, readBuf b a = if a = screen.val * 192 + row.val then some c else readBuf s.mem.cfg a)

/-- R34, R53: what frame_start, a read at Done and frame_ack do when they are allowed.
The names are the spec's decision D15; the bit of a 3D-sourced slot is the layout's `d` (R61; bit 23 by default, D4, log 4). The model's
own are the begun set emptied at frame_start (log 8), the moves (log 9), the argument kept in State until frame_ack (log 11) and
`shown` (log 17). -/
def Obligations.HandshakeMoves : Prop :=
  ∀ (s : State) (ms : List Move),
    (∀ screen, s.phase = .idle → s.mem.wf → noSlotOff s.layout screen s.mem →
        step { s with moves := .frameStart screen :: ms }
          = .next { s with phase := .run, screen3d := some screen, started := [], cur := none, waiting := [], moves := ms })
      ∧ (∀ (y : Fin 384) (col : Col) (v : OutEl), s.phase = .done → readBuf s.mem.out (y.val * 256 + col.val) = some v →
        step { s with moves := .readOut y col :: ms } = .next { s with moves := ms, shown := some v })
      ∧ (s.phase = .done →
        step { s with moves := .frameAck :: ms } = .next { s with phase := .idle, screen3d := none, moves := ms })

/-- R162: after reset the phase is Idle, no element of any buffer holds a value, no invocation and no latch exists; the layout is
the default of D4 (log 4).
The spec's decision D16 (log 20). -/
def Obligations.ResetHoldsNoValue : Prop :=
  State.reset.phase = .idle ∧ State.reset.layout = ⟨18, 23, 24, 25, 26⟩
    ∧ (∀ p : Pos, readBuf State.reset.mem.top (posIndex p) = none ∧ readBuf State.reset.mem.bot (posIndex p) = none
        ∧ readBuf State.reset.mem.g3d (g3dIndex p.row p.col) = none
        ∧ readBuf State.reset.mem.cfg (cfgIndex p.screen p.row) = none ∧ outAt State.reset.mem p = none)
    ∧ State.reset.cur = none ∧ State.reset.waiting = [] ∧ State.reset.screen3d = none

/-! ## The layout -/

/-- R7, R61: the layout is an argument of the machine: no step changes it, and a producer that packs the same pixels under
another layout gets the same colours ("With another `LAYER_LAYOUT` the hexadecimal values change and nothing else does",
95_test_vectors.md). That it stands in State is the model's choice (log 4). -/
def Obligations.LayoutIsAnArgument : Prop :=
  (∀ s t : State, step s = .next t → t.layout = s.layout)
    ∧ ∀ (L K : Config.LayerLayout) (top bottom : LayerPixel) (w3 : Word32) (cf : CfgRec), L.Wf → K.Wf →
      pixel L (encodeLayer L top) (encodeLayer L bottom) w3 cf = pixel K (encodeLayer K top) (encodeLayer K bottom) w3 cf
end

