-- ==== Sys2Proof/Laws/Arithmetic.lean ====
section
/-! SUPPORT. Laws/Arithmetic.lean: the clamp and the scaled fields: where they lie and what they equal. -/

namespace Sys2Proof.Machine

/-- The clamp is a maximum of a minimum. -/
theorem clamp01_eq (v : Rat) : clamp01 v = unitRange v := by
  unfold clamp01 unitRange
  split
  · rename_i h
    rw [max_eq_left]
    exact (min_le_right _ _).trans h.le
  · rename_i h
    rw [not_lt] at h
    split
    · rename_i h1
      rw [min_eq_left h1.le, max_eq_right]
      norm_num
    · rename_i h1
      rw [not_lt] at h1
      rw [min_eq_right h1, max_eq_right h]

theorem clamp01_nonneg (v : Rat) : 0 ≤ clamp01 v := by
  rw [clamp01_eq]; exact le_max_left _ _

theorem clamp01_le_one (v : Rat) : clamp01 v ≤ 1 := by
  rw [clamp01_eq, unitRange]
  exact max_le (by norm_num) (min_le_left _ _)

/-- The clamp leaves a value of [0, 1] as it is. -/
theorem clamp01_of_mem {v : Rat} (h0 : 0 ≤ v) (h1 : v ≤ 1) : clamp01 v = v := by
  rw [clamp01, if_neg (not_lt.mpr h0), if_neg (not_lt.mpr h1)]

theorem clamp01_of_nonpos {v : Rat} (h : v ≤ 0) : clamp01 v = 0 := by
  rw [clamp01_eq, unitRange, max_eq_left]
  exact (min_le_right _ _).trans h

theorem clamp01_of_one_le {v : Rat} (h : 1 ≤ v) : clamp01 v = 1 := by
  rw [clamp01_eq, unitRange, min_eq_left h, max_eq_right]
  norm_num

/-- A 6-bit channel over 63 lies in [0, 1] (R81). -/
theorem norm6_mem (v : BitVec 6) : 0 ≤ norm6 v ∧ norm6 v ≤ 1 := by
  have h : v.toNat ≤ 63 := by have := v.isLt; omega
  have hq : (v.toNat : Rat) ≤ 63 := by exact_mod_cast h
  unfold norm6
  simp only [Config.chDiv]
  constructor
  · positivity
  · rw [div_le_one (by norm_num)]
    exact_mod_cast h

end Sys2Proof.Machine
end

