-- ==== Sys2Proof/Laws/State.lean ====
section
/-! SUPPORT. Laws/State.lean: one lemma per field per update, true by rfl, so that no later proof unfolds a record update. -/

namespace Sys2Proof.Machine

@[simp] theorem setSt_wt (v : Color) (l : Latches) : (setSt v l).wt = l.wt := rfl
@[simp] theorem setSt_wb (v : Color) (l : Latches) : (setSt v l).wb = l.wb := rfl
@[simp] theorem setSt_w3 (v : Color) (l : Latches) : (setSt v l).w3 = l.w3 := rfl
@[simp] theorem setSt_cf (v : Color) (l : Latches) : (setSt v l).cf = l.cf := rfl
@[simp] theorem setSt_lt (v : Color) (l : Latches) : (setSt v l).lt = l.lt := rfl
@[simp] theorem setSt_lb (v : Color) (l : Latches) : (setSt v l).lb = l.lb := rfl
@[simp] theorem setSt_p3 (v : Color) (l : Latches) : (setSt v l).p3 = l.p3 := rfl
@[simp] theorem setSt_st (v : Color) (l : Latches) : (setSt v l).st = some v := rfl
@[simp] theorem setSt_sb (v : Color) (l : Latches) : (setSt v l).sb = l.sb := rfl
@[simp] theorem setSt_cc (v : Color) (l : Latches) : (setSt v l).cc = l.cc := rfl
@[simp] theorem setSt_oc (v : Color) (l : Latches) : (setSt v l).oc = l.oc := rfl

@[simp] theorem setSb_wt (v : Color) (l : Latches) : (setSb v l).wt = l.wt := rfl
@[simp] theorem setSb_wb (v : Color) (l : Latches) : (setSb v l).wb = l.wb := rfl
@[simp] theorem setSb_w3 (v : Color) (l : Latches) : (setSb v l).w3 = l.w3 := rfl
@[simp] theorem setSb_cf (v : Color) (l : Latches) : (setSb v l).cf = l.cf := rfl
@[simp] theorem setSb_lt (v : Color) (l : Latches) : (setSb v l).lt = l.lt := rfl
@[simp] theorem setSb_lb (v : Color) (l : Latches) : (setSb v l).lb = l.lb := rfl
@[simp] theorem setSb_p3 (v : Color) (l : Latches) : (setSb v l).p3 = l.p3 := rfl
@[simp] theorem setSb_st (v : Color) (l : Latches) : (setSb v l).st = l.st := rfl
@[simp] theorem setSb_sb (v : Color) (l : Latches) : (setSb v l).sb = some v := rfl
@[simp] theorem setSb_cc (v : Color) (l : Latches) : (setSb v l).cc = l.cc := rfl
@[simp] theorem setSb_oc (v : Color) (l : Latches) : (setSb v l).oc = l.oc := rfl

@[simp] theorem setCc_wt (v : Color) (l : Latches) : (setCc v l).wt = l.wt := rfl
@[simp] theorem setCc_wb (v : Color) (l : Latches) : (setCc v l).wb = l.wb := rfl
@[simp] theorem setCc_w3 (v : Color) (l : Latches) : (setCc v l).w3 = l.w3 := rfl
@[simp] theorem setCc_cf (v : Color) (l : Latches) : (setCc v l).cf = l.cf := rfl
@[simp] theorem setCc_lt (v : Color) (l : Latches) : (setCc v l).lt = l.lt := rfl
@[simp] theorem setCc_lb (v : Color) (l : Latches) : (setCc v l).lb = l.lb := rfl
@[simp] theorem setCc_p3 (v : Color) (l : Latches) : (setCc v l).p3 = l.p3 := rfl
@[simp] theorem setCc_st (v : Color) (l : Latches) : (setCc v l).st = l.st := rfl
@[simp] theorem setCc_sb (v : Color) (l : Latches) : (setCc v l).sb = l.sb := rfl
@[simp] theorem setCc_cc (v : Color) (l : Latches) : (setCc v l).cc = some v := rfl
@[simp] theorem setCc_oc (v : Color) (l : Latches) : (setCc v l).oc = l.oc := rfl

@[simp] theorem setOc_wt (v : OutEl) (l : Latches) : (setOc v l).wt = l.wt := rfl
@[simp] theorem setOc_wb (v : OutEl) (l : Latches) : (setOc v l).wb = l.wb := rfl
@[simp] theorem setOc_w3 (v : OutEl) (l : Latches) : (setOc v l).w3 = l.w3 := rfl
@[simp] theorem setOc_cf (v : OutEl) (l : Latches) : (setOc v l).cf = l.cf := rfl
@[simp] theorem setOc_lt (v : OutEl) (l : Latches) : (setOc v l).lt = l.lt := rfl
@[simp] theorem setOc_lb (v : OutEl) (l : Latches) : (setOc v l).lb = l.lb := rfl
@[simp] theorem setOc_p3 (v : OutEl) (l : Latches) : (setOc v l).p3 = l.p3 := rfl
@[simp] theorem setOc_st (v : OutEl) (l : Latches) : (setOc v l).st = l.st := rfl
@[simp] theorem setOc_sb (v : OutEl) (l : Latches) : (setOc v l).sb = l.sb := rfl
@[simp] theorem setOc_cc (v : OutEl) (l : Latches) : (setOc v l).cc = l.cc := rfl
@[simp] theorem setOc_oc (v : OutEl) (l : Latches) : (setOc v l).oc = some v := rfl

@[simp] theorem latchFetched_wt (l : Latches) (f : Fetched) : (latchFetched l f).wt = some f.wt := rfl
@[simp] theorem latchFetched_wb (l : Latches) (f : Fetched) : (latchFetched l f).wb = some f.wb := rfl
@[simp] theorem latchFetched_w3 (l : Latches) (f : Fetched) : (latchFetched l f).w3 = some f.w3 := rfl
@[simp] theorem latchFetched_cf (l : Latches) (f : Fetched) : (latchFetched l f).cf = some f.cf := rfl
@[simp] theorem latchFetched_lt (l : Latches) (f : Fetched) : (latchFetched l f).lt = l.lt := rfl
@[simp] theorem latchFetched_lb (l : Latches) (f : Fetched) : (latchFetched l f).lb = l.lb := rfl
@[simp] theorem latchFetched_p3 (l : Latches) (f : Fetched) : (latchFetched l f).p3 = l.p3 := rfl
@[simp] theorem latchFetched_st (l : Latches) (f : Fetched) : (latchFetched l f).st = l.st := rfl
@[simp] theorem latchFetched_sb (l : Latches) (f : Fetched) : (latchFetched l f).sb = l.sb := rfl
@[simp] theorem latchFetched_cc (l : Latches) (f : Fetched) : (latchFetched l f).cc = l.cc := rfl
@[simp] theorem latchFetched_oc (l : Latches) (f : Fetched) : (latchFetched l f).oc = l.oc := rfl

@[simp] theorem markStarted_phase (p : Pos) (s : State) : (markStarted p s).phase = s.phase := rfl
@[simp] theorem markStarted_screen3d (p : Pos) (s : State) : (markStarted p s).screen3d = s.screen3d := rfl
@[simp] theorem markStarted_mem (p : Pos) (s : State) : (markStarted p s).mem = s.mem := rfl
@[simp] theorem markStarted_started (p : Pos) (s : State) : (markStarted p s).started = writeBuf s.started (posIndex p) () := rfl
@[simp] theorem markStarted_cur (p : Pos) (s : State) : (markStarted p s).cur = s.cur := rfl
@[simp] theorem markStarted_waiting (p : Pos) (s : State) : (markStarted p s).waiting = s.waiting := rfl
@[simp] theorem markStarted_moves (p : Pos) (s : State) : (markStarted p s).moves = s.moves := rfl
@[simp] theorem markStarted_layout (p : Pos) (s : State) : (markStarted p s).layout = s.layout := rfl
@[simp] theorem markStarted_shown (p : Pos) (s : State) : (markStarted p s).shown = s.shown := rfl

@[simp] theorem storeAt_top (m : Memory) (p : Pos) (v : OutEl) : (storeAt m p v).top = m.top := rfl
@[simp] theorem storeAt_bot (m : Memory) (p : Pos) (v : OutEl) : (storeAt m p v).bot = m.bot := rfl
@[simp] theorem storeAt_g3d (m : Memory) (p : Pos) (v : OutEl) : (storeAt m p v).g3d = m.g3d := rfl
@[simp] theorem storeAt_cfg (m : Memory) (p : Pos) (v : OutEl) : (storeAt m p v).cfg = m.cfg := rfl
@[simp] theorem storeAt_out (m : Memory) (p : Pos) (v : OutEl) : (storeAt m p v).out = writeBuf m.out (outIndex (outRow p) p.col) v := rfl

@[simp] theorem writeTop_top (m : Memory) (p : Pos) (w : Word32) : (writeTop p w m).top = writeBuf m.top (posIndex p) w := rfl
@[simp] theorem writeTop_bot (m : Memory) (p : Pos) (w : Word32) : (writeTop p w m).bot = m.bot := rfl
@[simp] theorem writeTop_g3d (m : Memory) (p : Pos) (w : Word32) : (writeTop p w m).g3d = m.g3d := rfl
@[simp] theorem writeTop_cfg (m : Memory) (p : Pos) (w : Word32) : (writeTop p w m).cfg = m.cfg := rfl
@[simp] theorem writeTop_out (m : Memory) (p : Pos) (w : Word32) : (writeTop p w m).out = m.out := rfl

@[simp] theorem writeBot_top (m : Memory) (p : Pos) (w : Word32) : (writeBot p w m).top = m.top := rfl
@[simp] theorem writeBot_bot (m : Memory) (p : Pos) (w : Word32) : (writeBot p w m).bot = writeBuf m.bot (posIndex p) w := rfl
@[simp] theorem writeBot_g3d (m : Memory) (p : Pos) (w : Word32) : (writeBot p w m).g3d = m.g3d := rfl
@[simp] theorem writeBot_cfg (m : Memory) (p : Pos) (w : Word32) : (writeBot p w m).cfg = m.cfg := rfl
@[simp] theorem writeBot_out (m : Memory) (p : Pos) (w : Word32) : (writeBot p w m).out = m.out := rfl

@[simp] theorem writeG3d_top (m : Memory) (row : Row) (col : Col) (w : Word32) : (writeG3d row col w m).top = m.top := rfl
@[simp] theorem writeG3d_bot (m : Memory) (row : Row) (col : Col) (w : Word32) : (writeG3d row col w m).bot = m.bot := rfl
@[simp] theorem writeG3d_g3d (m : Memory) (row : Row) (col : Col) (w : Word32) : (writeG3d row col w m).g3d = writeBuf m.g3d (g3dIndex row col) w := rfl
@[simp] theorem writeG3d_cfg (m : Memory) (row : Row) (col : Col) (w : Word32) : (writeG3d row col w m).cfg = m.cfg := rfl
@[simp] theorem writeG3d_out (m : Memory) (row : Row) (col : Col) (w : Word32) : (writeG3d row col w m).out = m.out := rfl

@[simp] theorem writeCfg_top (m : Memory) (screen : Screen) (row : Row) (c : CfgRec) : (writeCfg screen row c m).top = m.top := rfl
@[simp] theorem writeCfg_bot (m : Memory) (screen : Screen) (row : Row) (c : CfgRec) : (writeCfg screen row c m).bot = m.bot := rfl
@[simp] theorem writeCfg_g3d (m : Memory) (screen : Screen) (row : Row) (c : CfgRec) : (writeCfg screen row c m).g3d = m.g3d := rfl
@[simp] theorem writeCfg_cfg (m : Memory) (screen : Screen) (row : Row) (c : CfgRec) : (writeCfg screen row c m).cfg = writeBuf m.cfg (cfgIndex screen row) c := rfl
@[simp] theorem writeCfg_out (m : Memory) (screen : Screen) (row : Row) (c : CfgRec) : (writeCfg screen row c m).out = m.out := rfl

@[simp] theorem reset_phase : State.reset.phase = .idle := rfl
@[simp] theorem reset_screen3d : State.reset.screen3d = none := rfl
@[simp] theorem reset_mem : State.reset.mem = Memory.reset := rfl
@[simp] theorem reset_started : State.reset.started = [] := rfl
@[simp] theorem reset_cur : State.reset.cur = none := rfl
@[simp] theorem reset_waiting : State.reset.waiting = [] := rfl
@[simp] theorem reset_moves : State.reset.moves = [] := rfl
@[simp] theorem reset_layout : State.reset.layout = defaultLayout := rfl
@[simp] theorem reset_shown : State.reset.shown = none := rfl

@[simp] theorem memoryReset_top : Memory.reset.top = [] := rfl
@[simp] theorem memoryReset_bot : Memory.reset.bot = [] := rfl
@[simp] theorem memoryReset_g3d : Memory.reset.g3d = [] := rfl
@[simp] theorem memoryReset_cfg : Memory.reset.cfg = [] := rfl
@[simp] theorem memoryReset_out : Memory.reset.out = [] := rfl

@[simp] theorem emptyLatches_wt : Latches.empty.wt = none := rfl
@[simp] theorem emptyLatches_wb : Latches.empty.wb = none := rfl
@[simp] theorem emptyLatches_w3 : Latches.empty.w3 = none := rfl
@[simp] theorem emptyLatches_cf : Latches.empty.cf = none := rfl
@[simp] theorem emptyLatches_lt : Latches.empty.lt = none := rfl
@[simp] theorem emptyLatches_lb : Latches.empty.lb = none := rfl
@[simp] theorem emptyLatches_p3 : Latches.empty.p3 = none := rfl
@[simp] theorem emptyLatches_st : Latches.empty.st = none := rfl
@[simp] theorem emptyLatches_sb : Latches.empty.sb = none := rfl
@[simp] theorem emptyLatches_cc : Latches.empty.cc = none := rfl
@[simp] theorem emptyLatches_oc : Latches.empty.oc = none := rfl

end Sys2Proof.Machine
end

