-- ==== Sys2Proof/Laws/Buffers.lean ====
section
/-! SUPPORT. Laws/Buffers.lean: buffers. Read after write, reads elsewhere, the canonical form, and the index maps. -/

namespace Sys2Proof.Machine

variable {α : Type}

@[simp] theorem readBuf_nil (i : Nat) : readBuf ([] : Buf α) i = none := rfl

theorem readBuf_cons (j : Nat) (v : α) (b : Buf α) (i : Nat) :
    readBuf ((j, v) :: b) i = if i = j then some v else readBuf b i := rfl

/-- A read after a write, at any index. -/
theorem readBuf_writeBuf (b : Buf α) (i k : Nat) (v : α) :
    readBuf (writeBuf b i v) k = if k = i then some v else readBuf b k := by
  induction b with
  | nil => rfl
  | cons e rest ih =>
    obtain ⟨j, u⟩ := e
    unfold writeBuf
    split
    · rfl
    · split
      · rename_i h
        subst h
        simp only [readBuf_cons]
        split <;> rfl
      · simp only [readBuf_cons, ih]
        split
        · rename_i h1 h2 h3
          have : k ≠ i := by omega
          simp [this]
        · rfl

@[simp] theorem readBuf_writeBuf_same (b : Buf α) (i : Nat) (v : α) : readBuf (writeBuf b i v) i = some v := by
  simp [readBuf_writeBuf]

theorem readBuf_writeBuf_other (b : Buf α) {i k : Nat} (v : α) (h : k ≠ i) :
    readBuf (writeBuf b i v) k = readBuf b k := by
  simp [readBuf_writeBuf, h]

/-- What a written buffer lists: the new entry, and old ones. -/
theorem mem_writeBuf {b : Buf α} {i : Nat} {v : α} {e : Nat × α} (h : e ∈ writeBuf b i v) : e = (i, v) ∨ e ∈ b := by
  induction b with
  | nil => exact .inl (by simpa [writeBuf] using h)
  | cons f rest ih =>
    obtain ⟨j, u⟩ := f
    unfold writeBuf at h
    split at h
    · exact List.mem_cons.mp h
    · split at h
      · rcases List.mem_cons.mp h with h | h
        · exact .inl h
        · exact .inr (List.mem_cons_of_mem _ h)
      · rcases List.mem_cons.mp h with h | h
        · exact .inr (h ▸ List.mem_cons_self)
        · exact (ih h).imp_right (List.mem_cons_of_mem _)

/-- A write keeps the canonical form. -/
theorem writeBuf_wf {n : Nat} {b : Buf α} {i : Nat} (v : α) (hb : bufWf n b) (hi : i < n) : bufWf n (writeBuf b i v) := by
  refine ⟨?_, fun e he => ?_⟩
  · obtain ⟨hp, -⟩ := hb
    induction b with
    | nil => simp [writeBuf]
    | cons f rest ih =>
      obtain ⟨j, u⟩ := f
      rw [List.pairwise_cons] at hp
      obtain ⟨hhead, hrest⟩ := hp
      unfold writeBuf
      split
      · rename_i hlt
        refine List.pairwise_cons.mpr ⟨fun e he => ?_, List.pairwise_cons.mpr ⟨hhead, hrest⟩⟩
        rcases List.mem_cons.mp he with rfl | he
        · exact hlt
        · exact Nat.lt_trans hlt (hhead e he)
      · split
        · rename_i heq
          subst heq
          exact List.pairwise_cons.mpr ⟨hhead, hrest⟩
        · refine List.pairwise_cons.mpr ⟨fun e he => ?_, ih hrest⟩
          rcases mem_writeBuf he with rfl | he
          · simp; omega
          · exact hhead e he
  · rcases mem_writeBuf he with rfl | he
    · exact hi
    · exact hb.2 e he

/-- A listed index reads as its element, in canonical form. -/
theorem readBuf_of_mem {n : Nat} {b : Buf α} (hb : bufWf n b) {e : Nat × α} (he : e ∈ b) : readBuf b e.1 = some e.2 := by
  obtain ⟨hp, -⟩ := hb
  induction b with
  | nil => cases he
  | cons f rest ih =>
    obtain ⟨j, u⟩ := f
    rw [List.pairwise_cons] at hp
    rcases List.mem_cons.mp he with rfl | he
    · simp [readBuf_cons]
    · have : j < e.1 := hp.1 e he
      rw [readBuf_cons, if_neg (by omega), ih he hp.2]

/-- An index that reads as an element is listed with it. -/
theorem mem_of_readBuf {b : Buf α} {i : Nat} {v : α} (h : readBuf b i = some v) : (i, v) ∈ b := by
  induction b with
  | nil => cases h
  | cons f rest ih =>
    obtain ⟨j, u⟩ := f
    rw [readBuf_cons] at h
    split at h
    · rename_i hij
      cases h
      exact hij ▸ List.mem_cons_self
    · exact List.mem_cons_of_mem _ (ih h)

/-- Nothing is held outside a buffer. -/
theorem readBuf_lt {n : Nat} {b : Buf α} (hb : bufWf n b) {i : Nat} {v : α} (h : readBuf b i = some v) : i < n :=
  hb.2 _ (mem_of_readBuf h)

/-- Two buffers in canonical form that read the same are the same. -/
theorem bufWf_ext {n : Nat} {b c : Buf α} (hb : bufWf n b) (hc : bufWf n c) (h : ∀ i, readBuf b i = readBuf c i) : b = c := by
  have sub : ∀ {x y : Buf α}, bufWf n x → (∀ i, readBuf x i = readBuf y i) → ∀ e ∈ x, e ∈ y := by
    intro x y hx hxy e he
    exact mem_of_readBuf (hxy e.1 ▸ readBuf_of_mem hx he)
  have asym : ∀ {e f : Nat × α}, e ∈ b → f ∈ b → e.1 < f.1 → f.1 < e.1 → e = f := by omega
  have nd : ∀ {x : Buf α}, bufWf n x → x.Nodup := fun hx => hx.1.imp (fun {e f} hlt heq => by subst heq; omega)
  have hperm : b.Perm c :=
    (List.perm_ext_iff_of_nodup (nd hb) (nd hc)).mpr fun e => ⟨sub hb h e, sub hc (fun i => (h i).symm) e⟩
  exact hperm.eq_of_pairwise (fun e f _ _ h1 h2 => by omega) hb.1 hc.1

/-- A write at an index that holds no value lists one element more. -/
theorem length_writeBuf_free {b : Buf α} {i : Nat} (v : α) (h : readBuf b i = none) :
    (writeBuf b i v).length = b.length + 1 := by
  induction b with
  | nil => rfl
  | cons f rest ih =>
    obtain ⟨j, u⟩ := f
    rw [readBuf_cons] at h
    unfold writeBuf
    split
    · rfl
    · split at h
      · cases h
      · rename_i hij
        rw [if_neg hij, List.length_cons, ih h, List.length_cons]

/-- The index `lowestFree` finds has not begun, lies at `n` or above, and every index between has begun. -/
theorem lowestFree_spec {b : Buf Unit} {n : Nat} (hb : b.Pairwise (fun e f => e.1 < f.1)) (hn : ∀ e ∈ b, n ≤ e.1) :
    n ≤ lowestFree n b ∧ readBuf b (lowestFree n b) = none
      ∧ ∀ k, n ≤ k → k < lowestFree n b → readBuf b k = some () := by
  induction b generalizing n with
  | nil => exact ⟨Nat.le_refl n, rfl, fun k h1 h2 => absurd (Nat.lt_of_lt_of_le h2 h1) (Nat.lt_irrefl _)⟩
  | cons f rest ih =>
    obtain ⟨j, u⟩ := f
    rw [List.pairwise_cons] at hb
    have hj : n ≤ j := hn _ List.mem_cons_self
    unfold lowestFree
    split
    · rename_i hjn
      subst hjn
      obtain ⟨h1, h2, h3⟩ := ih (n := j + 1) hb.2 (fun e he => hb.1 e he)
      refine ⟨by omega, by rw [readBuf_cons, if_neg (by omega)]; exact h2, fun k hk hlt => ?_⟩
      rw [readBuf_cons]
      split
      · rfl
      · exact h3 k (by omega) hlt
    · refine ⟨Nat.le_refl n, ?_, fun k h1 h2 => absurd (Nat.lt_of_lt_of_le h2 h1) (Nat.lt_irrefl _)⟩
      rw [readBuf_cons, if_neg (by omega)]
      cases hr : readBuf rest n with
      | none => rfl
      | some v => exact absurd (hb.1 _ (mem_of_readBuf hr)) (by simp; omega)

/-! ## Index maps -/

theorem posIndex_lt (p : Pos) : posIndex p < Config.pixels := by
  have := p.screen.isLt; have := p.row.isLt; have := p.col.isLt
  simp only [posIndex, linear, Config.pixels]; omega

theorem g3dIndex_lt (row : Row) (col : Col) : g3dIndex row col < Config.g3dElements := by
  have := row.isLt; have := col.isLt
  simp only [g3dIndex, Config.g3dElements]; omega

theorem cfgIndex_lt (screen : Screen) (row : Row) : cfgIndex screen row < Config.cfgRecords := by
  have := screen.isLt; have := row.isLt
  simp only [cfgIndex, Config.cfgRecords]; omega

theorem outIndex_eq (p : Pos) : outIndex (outRow p) p.col = posIndex p := by
  simp only [outIndex, outRow, posIndex, linear]; omega

theorem posIndex_injective {p q : Pos} (h : posIndex p = posIndex q) : p = q := by
  obtain ⟨⟨s, hs⟩, ⟨r, hr⟩, ⟨x, hx⟩⟩ := p
  obtain ⟨⟨s', hs'⟩, ⟨r', hr'⟩, ⟨x', hx'⟩⟩ := q
  simp only [posIndex, linear] at h
  have : s = s' := by omega
  have : r = r' := by omega
  have : x = x' := by omega
  simp_all

theorem posOf_val (p : Pos) : posOf p.screen.val p.row.val p.col.val = some p := by
  simp [posOf, p.screen.isLt, p.row.isLt, p.col.isLt]

theorem posOf_some {screen row col : Nat} {p : Pos} (h : posOf screen row col = some p) :
    screen = p.screen.val ∧ row = p.row.val ∧ col = p.col.val := by
  unfold posOf at h
  repeat' split at h
  all_goals first | cases h; exact ⟨rfl, rfl, rfl⟩ | cases h

theorem posOfIndex_posIndex (p : Pos) : posOfIndex (posIndex p) = some p := by
  have h1 : posIndex p / 49152 = p.screen.val := by
    have := p.screen.isLt; have := p.row.isLt; have := p.col.isLt
    simp only [posIndex, linear]; omega
  have h2 : posIndex p / 256 % 192 = p.row.val := by
    have := p.screen.isLt; have := p.row.isLt; have := p.col.isLt
    simp only [posIndex, linear]; omega
  have h3 : posIndex p % 256 = p.col.val := by
    have := p.screen.isLt; have := p.row.isLt; have := p.col.isLt
    simp only [posIndex, linear]; omega
  rw [posOfIndex, h1, h2, h3, posOf_val]

theorem posOfIndex_some {n : Nat} {p : Pos} (h : posOfIndex n = some p) : posIndex p = n := by
  obtain ⟨h1, h2, h3⟩ := posOf_some h
  simp only [posIndex, linear, ← h1, ← h2, ← h3]; omega

theorem posOfIndex_isSome {n : Nat} (h : n < Config.pixels) : ∃ p, posOfIndex n = some p ∧ posIndex p = n := by
  simp only [Config.pixels] at h
  have h1 : n / 49152 < 2 := by omega
  have h2 : n / 256 % 192 < 192 := by omega
  have h3 : n % 256 < 256 := by omega
  have he : posOfIndex n = some ⟨⟨_, h1⟩, ⟨_, h2⟩, ⟨_, h3⟩⟩ := by simp [posOfIndex, posOf, h1, h2, h3]
  exact ⟨_, he, posOfIndex_some he⟩

/-! ## The canonical form of the five buffers -/

theorem memoryReset_wf : Memory.reset.wf := by decide

theorem storeAt_wf {m : Memory} (h : m.wf) (p : Pos) (v : OutEl) : (storeAt m p v).wf :=
  ⟨h.1, h.2.1, h.2.2.1, h.2.2.2.1, writeBuf_wf v h.2.2.2.2 (by rw [outIndex_eq]; exact posIndex_lt p)⟩

theorem writeTop_wf {m : Memory} (h : m.wf) (p : Pos) (w : Word32) : (writeTop p w m).wf :=
  ⟨writeBuf_wf w h.1 (posIndex_lt p), h.2⟩

theorem writeBot_wf {m : Memory} (h : m.wf) (p : Pos) (w : Word32) : (writeBot p w m).wf :=
  ⟨h.1, writeBuf_wf w h.2.1 (posIndex_lt p), h.2.2⟩

theorem writeG3d_wf {m : Memory} (h : m.wf) (row : Row) (col : Col) (w : Word32) : (writeG3d row col w m).wf :=
  ⟨h.1, h.2.1, writeBuf_wf w h.2.2.1 (g3dIndex_lt row col), h.2.2.2⟩

theorem writeCfg_wf {m : Memory} (h : m.wf) (screen : Screen) (row : Row) (c : CfgRec) : (writeCfg screen row c m).wf :=
  ⟨h.1, h.2.1, h.2.2.1, writeBuf_wf c h.2.2.2.1 (cfgIndex_lt screen row), h.2.2.2.2⟩

end Sys2Proof.Machine
end

