-- ==== Sys2Proof/Laws/Encoding.lean ====
section
/-! SUPPORT. Laws/Encoding.lean: well-formedness as bounds on the operands, masks that meet, and what a bit of a key is. -/

namespace Sys2Proof

theorem wellFormed_pixel (screen row col : Nat) :
    (Instr.pixel screen row col).wellFormed = true ↔ screen < 2 ∧ row < 192 ∧ col < 256 := by
  simp only [Instr.wellFormed, Bool.and_eq_true, decide_eq_true_eq, and_assoc]
  exact Iff.rfl

theorem wellFormed_frame (screen3d : Nat) : (Instr.frame screen3d).wellFormed = true ↔ screen3d < 2 := by
  simp [Instr.wellFormed, Config.screens]

/-- The linear form of a position that exists fits 17 bits and is below 98304 (R24). -/
theorem linear_lt {screen row col : Nat} (hs : screen < 2) (hr : row < 192) (hc : col < 256) :
    linear screen row col < 98304 := by
  simp only [linear]; omega

namespace Machine

/-- `intersects` is a shared set bit (R10). -/
theorem intersects_iff (a b : BitVec 6) : intersects a b = true ↔ meets a b := by
  unfold intersects meets
  rw [decide_eq_true_eq, ne_eq, BitVec.eq_of_getLsbD_eq_iff.not]
  simp only [BitVec.getLsbD_and, BitVec.ofNat_eq_ofNat, BitVec.getLsbD_zero, Bool.and_eq_false_imp, not_forall, Bool.not_eq_false]
  constructor
  · rintro ⟨i, _, h1, h2⟩
    exact ⟨i, h1, h2⟩
  · rintro ⟨i, h1, h2⟩
    exact ⟨i, BitVec.lt_of_getLsbD h1, h1, h2⟩

theorem intersects_eq_false (a b : BitVec 6) : intersects a b = false ↔ ¬ meets a b := by
  rw [← intersects_iff, Bool.not_eq_true]

end Machine

end Sys2Proof
end

