-- ==== Sys2Proof/Laws/Ops.lean ====
section
/-! SUPPORT. Laws/Ops.lean: for each shared operation, one lemma that says everything it can do when it answers a next state
(or a value). Later proofs cite these instead of unfolding the operation. -/

namespace Sys2Proof.Machine

/-! ## Latches -/

@[simp] theorem operand_some {α : Type} (n : LatchName) (v : α) (k : α → Except Fault Latches) :
    operand n (some v) k = k v := rfl

@[simp] theorem operand_none {α : Type} (n : LatchName) (k : α → Except Fault Latches) :
    operand n none k = .error (.latchHoldsNoValue n) := rfl

theorem operand_ok {α : Type} {n : LatchName} {o : Option α} {k : α → Except Fault Latches} {l : Latches} :
    operand n o k = .ok l ↔ ∃ v, o = some v ∧ k v = .ok l := by
  cases o <;> simp

/-- An operation on latches goes on exactly when an invocation is current and the operation answers; only the latches change. -/
theorem onLatches_next {f : Latches → Except Fault Latches} {s t : State} :
    onLatches f s = .next t ↔
      ∃ inv l, s.cur = some inv ∧ f inv.latches = .ok l ∧ t = { s with cur := some { inv with latches := l } } := by
  unfold onLatches
  constructor
  · intro h
    split at h
    · cases h
    · split at h
      · cases h
      · cases h
        exact ⟨_, _, by assumption, by assumption, rfl⟩
  · rintro ⟨inv, l, hc, hf, rfl⟩
    simp [hc, hf]

/-! ## Fetch and store -/

theorem memRead_ok {α β : Type} {n : InputBuf} {b : Buf α} {i : Nat} {k : α → Except Fault β} {r : β} :
    memRead n b i k = .ok r ↔ ∃ v, readBuf b i = some v ∧ k v = .ok r := by
  unfold memRead
  cases readBuf b i <;> simp

/-- The fetch answers exactly the four elements of the position. -/
theorem fetchAt_ok {m : Memory} {p : Pos} {f : Fetched} : fetchAt m p = .ok f ↔ inputsAt m p f := by
  simp only [fetchAt, memRead_ok]
  constructor
  · rintro ⟨wt, h1, wb, h2, w3, h3, cf, h4, h⟩
    cases h
    exact ⟨h1, h2, h3, h4⟩
  · rintro ⟨h1, h2, h3, h4⟩
    exact ⟨_, h1, _, h2, _, h3, _, h4, rfl⟩

/-- Storing touches no input, so it changes no fetch. -/
@[simp] theorem fetchAt_storeAt (m : Memory) (p q : Pos) (v : OutEl) : fetchAt (storeAt m p v) q = fetchAt m q := rfl

theorem fetchCur_next {s t : State} :
    fetchCur s = .next t ↔
      ∃ inv f, s.cur = some inv ∧ fetchAt s.mem inv.pos = .ok f
        ∧ t = { s with cur := some { inv with latches := latchFetched inv.latches f } } := by
  unfold fetchCur
  constructor
  · intro h
    split at h
    · cases h
    · split at h
      · cases h
      · cases h
        exact ⟨_, _, by assumption, by assumption, rfl⟩
  · rintro ⟨inv, f, hc, hf, rfl⟩
    simp [hc, hf]

/-- The end of a frame changes the phase at most. -/
theorem finishFrame_eq (s : State) :
    finishFrame s = s ∧ ¬ (s.phase = .run ∧ s.started.length = Config.pixels ∧ s.cur = none ∧ s.waiting = [])
      ∨ finishFrame s = { s with phase := .done } ∧ s.phase = .run ∧ s.started.length = Config.pixels ∧ s.cur = none
          ∧ s.waiting = [] := by
  unfold finishFrame
  split
  · exact .inr ⟨rfl, by assumption⟩
  · exact .inl ⟨rfl, by assumption⟩

@[simp] theorem finishFrame_layout (s : State) : (finishFrame s).layout = s.layout := by unfold finishFrame; split <;> rfl
@[simp] theorem finishFrame_mem (s : State) : (finishFrame s).mem = s.mem := by unfold finishFrame; split <;> rfl
@[simp] theorem finishFrame_started (s : State) : (finishFrame s).started = s.started := by unfold finishFrame; split <;> rfl
@[simp] theorem finishFrame_cur (s : State) : (finishFrame s).cur = s.cur := by unfold finishFrame; split <;> rfl
@[simp] theorem finishFrame_waiting (s : State) : (finishFrame s).waiting = s.waiting := by unfold finishFrame; split <;> rfl
@[simp] theorem finishFrame_moves (s : State) : (finishFrame s).moves = s.moves := by unfold finishFrame; split <;> rfl
@[simp] theorem finishFrame_shown (s : State) : (finishFrame s).shown = s.shown := by unfold finishFrame; split <;> rfl
@[simp] theorem finishFrame_screen3d (s : State) : (finishFrame s).screen3d = s.screen3d := by
  unfold finishFrame; split <;> rfl

theorem storeCur_next {s t : State} :
    storeCur s = .next t ↔
      ∃ inv v, s.cur = some inv ∧ inv.latches.oc = some v
        ∧ t = finishFrame { s with mem := storeAt s.mem inv.pos v, cur := none } := by
  unfold storeCur
  constructor
  · intro h
    split at h
    · cases h
    · split at h
      · cases h
      · cases h
        exact ⟨_, _, by assumption, by assumption, rfl⟩
  · rintro ⟨inv, v, hc, hv, rfl⟩
    simp [hc, hv]

/-! ## Invocations -/

theorem enabled_iff {p : Pos} {s : State} : enabled p s = true ↔ s.phase = .run ∧ readBuf s.started (posIndex p) = none := by
  simp [enabled]

theorem beginAt_next {p : Pos} {s t : State} :
    beginAt p s = .next t ↔
      s.phase = .run ∧ readBuf s.started (posIndex p) = none
        ∧ t = markStarted p { s with cur := some { pos := p, latches := Latches.empty }, waiting := inFlight s } := by
  unfold beginAt
  split
  · rename_i h
    rw [enabled_iff] at h
    simp only [Host.Outcome.next.injEq, h, true_and]
    exact eq_comm
  · rename_i h
    rw [enabled_iff] at h
    simp only [reduceCtorEq, false_iff]
    exact fun ⟨h1, h2, _⟩ => h ⟨h1, h2⟩

theorem selectAt_some {p : Pos} {s t : State} (h : selectAt p s = some t) :
    ∃ inv ∈ inFlight s, inv.pos = p
      ∧ t = { s with cur := some inv, waiting := (inFlight s).filter (fun other => decide (other.pos ≠ p)) } := by
  unfold selectAt at h
  split at h
  · cases h
  · rename_i inv hf
    cases h
    exact ⟨inv, List.mem_of_find?_eq_some hf, by simpa using List.find?_some hf, rfl⟩

theorem pixelAt_next {p : Pos} {s t : State} :
    pixelAt p s = .next t ↔
      s.phase = .run ∧ readBuf s.started (posIndex p) = none
        ∧ ∃ f, fetchAt s.mem p = .ok f ∧ t = finishFrame { markStarted p s with mem := storeAt s.mem p (pixelOf s.layout f) } := by
  unfold pixelAt
  split
  · rename_i h
    rw [enabled_iff] at h
    simp only [h, true_and]
    constructor
    · intro hn
      split at hn
      · cases hn
      · cases hn
        exact ⟨_, by assumption, rfl⟩
    · rintro ⟨f, hf, rfl⟩
      simp [hf]
  · rename_i h
    rw [enabled_iff] at h
    simp only [reduceCtorEq, false_iff]
    exact fun ⟨h1, h2, _⟩ => h ⟨h1, h2⟩

theorem execPixel_next {screen row col : Nat} {s t : State} (h : execPixel screen row col s = .next t) :
    ∃ p : Pos, screen = p.screen.val ∧ row = p.row.val ∧ col = p.col.val ∧ pixelAt p s = .next t := by
  unfold execPixel at h
  split at h
  · cases h
  · rename_i p hp
    exact ⟨p, (posOf_some hp).1, (posOf_some hp).2.1, (posOf_some hp).2.2, h⟩

theorem execPixel_pos (p : Pos) (s : State) : execPixel p.screen.val p.row.val p.col.val s = pixelAt p s := by
  simp [execPixel, posOf_val]

/-- One more position of a run of positions. -/
theorem pixelsFrom_succ_next {k i : Nat} {s t : State} (h : pixelsFrom (k + 1) i s = .next t) :
    ∃ p u, posIndex p = i ∧ pixelAt p s = .next u ∧ pixelsFrom k (i + 1) u = .next t := by
  rw [pixelsFrom] at h
  split at h
  · cases h
  · rename_i p hp
    split at h
    · rename_i u hu
      exact ⟨p, u, posOfIndex_some hp, hu, h⟩
    · cases h
    · cases h

theorem pixelsFrom_succ_of_next {k i : Nat} {s u : State} {p : Pos} (hp : posIndex p = i) (hu : pixelAt p s = .next u) :
    pixelsFrom (k + 1) i s = pixelsFrom k (i + 1) u := by
  rw [pixelsFrom, ← hp, posOfIndex_posIndex]
  simp [hu]

theorem execFrame_next {n : Nat} {s t : State} (h : execFrame n s = .next t) :
    ∃ screen u, screenOf n = some screen ∧ frameStart screen s = .next u ∧ pixelsFrom Config.pixels 0 u = .next t := by
  unfold execFrame at h
  split at h
  · cases h
  · split at h
    · exact ⟨_, _, by assumption, by assumption, h⟩
    · cases h
    · cases h

/-! ## The frame handshake and the host's moves -/

theorem frameStart_next {screen : Screen} {s t : State} :
    frameStart screen s = .next t ↔
      s.phase = .idle ∧ no3dOffScreen s.layout screen s.mem
        ∧ t = { s with phase := .run, screen3d := some screen, started := [], cur := none, waiting := [] } := by
  unfold frameStart no3dOffScreen
  split
  · rename_i h
    simp [h]
  · rename_i h
    split
    · rename_i h2
      simp only [reduceCtorEq, false_iff]
      rintro ⟨_, ⟨ha, hb⟩, _⟩
      simp [ha, hb] at h2
    · rename_i h2
      simp only [Bool.or_eq_true, not_or, Bool.not_eq_true] at h2
      simp only [Host.Outcome.next.injEq, h2, not_not.mp h, true_and]
      exact eq_comm

theorem frameAck_next {s t : State} :
    frameAck s = .next t ↔ s.phase = .done ∧ t = { s with phase := .idle, screen3d := none } := by
  unfold frameAck
  split
  · rename_i h
    simp only [Host.Outcome.next.injEq, h, true_and]
    exact eq_comm
  · rename_i h
    simp [h]

theorem hostWrite_next {f : Memory → Memory} {s t : State} :
    hostWrite f s = .next t ↔ s.phase = .idle ∧ t = { s with mem := f s.mem } := by
  unfold hostWrite
  split <;> rename_i h <;> simp [h, eq_comm]

theorem writeCfgCodes_next {screen : Screen} {row : Row} {c : CfgCodes} {s t : State} :
    writeCfgCodes screen row c s = .next t ↔
      ∃ rec, decodeCfg c = some rec ∧ s.phase = .idle ∧ t = { s with mem := writeCfg screen row rec s.mem } := by
  unfold writeCfgCodes
  split <;> rename_i h <;> simp [h, hostWrite_next]

theorem presentRead_next {y : Fin 384} {col : Col} {s t : State} :
    presentRead y col s = .next t ↔
      s.phase = .done ∧ ∃ v, readBuf s.mem.out (outIndex y.val col) = some v ∧ t = { s with shown := some v } := by
  unfold presentRead
  split
  · rename_i h
    split <;> rename_i h2 <;> simp [h, h2, eq_comm]
  · rename_i h
    simp [h]

end Sys2Proof.Machine
end

