-- ==== Sys2Proof/Laws/Frame.lean ====
section
/-! SUPPORT. Laws/Frame.lean: where PIXEL and a run of positions complete, and what the machine does next by itself. -/

namespace Sys2Proof.Machine

/-- The inputs are complete as long as they are the same. -/
theorem inputsComplete_of_same {m n : Memory} (h : sameInputs m n) (hn : inputsComplete n) : inputsComplete m := by
  obtain ⟨h1, h2, h3, h4⟩ := h
  intro p
  obtain ⟨f, hf⟩ := hn p
  exact ⟨f, by rwa [inputsAt, h1, h2, h3, h4]⟩

/-- PIXEL at a position that has not begun completes when its inputs are held: one position more has begun, and the frame is
Done exactly when that was the last. -/
theorem pixelAt_completes {p : Pos} {s : State} {f : Fetched} (hrun : s.phase = .run)
    (hfree : readBuf s.started (posIndex p) = none) (hin : inputsAt s.mem p f) :
    ∃ t, pixelAt p s = .next t ∧ t.started = writeBuf s.started (posIndex p) () ∧ sameInputs t.mem s.mem ∧ t.cur = s.cur
      ∧ t.waiting = s.waiting ∧ t.moves = s.moves
      ∧ t.phase = if s.started.length + 1 = Config.pixels ∧ s.cur = none ∧ s.waiting = [] then .done else .run := by
  refine ⟨_, pixelAt_next.mpr ⟨hrun, hfree, f, fetchAt_ok.mpr hin, rfl⟩, by simp, by simp [sameInputs], by simp, by simp, by simp, ?_⟩
  unfold finishFrame
  simp only [markStarted_phase, markStarted_started, markStarted_cur, markStarted_waiting, hrun, true_and,
    length_writeBuf_free () hfree]
  split
  · rfl
  · rfl

/-- The positions from `i` on run to the end of the frame when none of them has begun and every input is held; the phase does
not go back to Idle. -/
theorem pixelsFrom_completes (k : Nat) : ∀ (i : Nat) (s : State), i + k = Config.pixels → (k ≠ 0 → s.phase = .run) →
    s.phase ≠ .idle → s.started.length = i → (∀ j, i ≤ j → readBuf s.started j = none) → inputsComplete s.mem →
    ∃ t, pixelsFrom k i s = .next t ∧ t.phase ≠ .idle := by
  induction k with
  | zero => exact fun i s _ _ hp _ _ _ => ⟨s, rfl, hp⟩
  | succ k ih =>
    intro i s hik hrun hidle hlen hfree hin
    obtain ⟨p, -, hp⟩ := posOfIndex_isSome (n := i) (by omega)
    obtain ⟨f, hf⟩ := hin p
    obtain ⟨u, hu, hst, hsame, -, -, -, hph⟩ :=
      pixelAt_completes (hrun (by omega)) (hfree _ (by omega)) hf
    rw [pixelsFrom_succ_of_next hp hu]
    refine ih (i + 1) u (by omega) (fun hk => ?_) ?_ ?_ (fun j hj => ?_) (inputsComplete_of_same hsame hin)
    · rw [hph, if_neg]
      rintro ⟨h, -⟩
      omega
    · rw [hph]
      split <;> decide
    · rw [hst, length_writeBuf_free () (hfree _ (by omega)), hlen]
    · rw [hst, readBuf_writeBuf_other _ _ (by omega)]
      exact hfree j (by omega)

/-- The lowest free index is the one that is free with every lower one taken. -/
theorem lowestFree_eq {b : Buf Unit} {m : Nat} (hb : b.Pairwise (fun e f => e.1 < f.1)) (hm : readBuf b m = none)
    (hlow : ∀ k, k < m → readBuf b k = some ()) : lowestFree 0 b = m := by
  obtain ⟨-, h2, h3⟩ := lowestFree_spec (n := 0) hb (fun _ _ => Nat.zero_le _)
  rcases Nat.lt_trichotomy (lowestFree 0 b) m with h | h | h
  · rw [hlow _ h] at h2
    cases h2
  · exact h
  · rw [h3 m (Nat.zero_le _) h] at hm
    cases hm

/-- With no move pending and no invocation in flight, a frame in progress runs PIXEL at the lowest position that has not
begun. -/
theorem step_ownPixel {s : State} {p : Pos} (hrun : s.phase = .run) (hm : s.moves = []) (hc : s.cur = none)
    (hw : s.waiting = []) (hp : lowestFree 0 s.started = posIndex p) : step s = pixelAt p s := by
  simp only [step, select, hm, selectOwn, hrun, hc, hw, hp, posOfIndex_posIndex, runSelection, pixelInstr, exec,
    execPixel_pos]

/-- A scheduler's choice runs PIXEL at its position. -/
theorem step_runPixel {s : State} {p : Pos} {ms : List Move} (hm : s.moves = .runPixel p :: ms) :
    step s = pixelAt p { s with moves := ms } := by
  simp only [step, select, hm, selectMove, runSelection, pixelInstr, exec, execPixel_pos]

end Sys2Proof.Machine
end

