-- ==== Sys2Proof/Machine/Parameters.lean ====
section
/-! DEFINITION. Machine/Parameters.lean: what the open arguments NUM, OUT_FORMAT and TM_MEANING of spec/00_scope.md rule R7 are
arguments of. No rule reads one of them, so no operation and no step does: these are views of what the machine computes, and each
is stated for every value of its argument. -/

namespace Sys2Proof.Machine

/-! ## OUT_FORMAT (R67, D12) -/

/-- The integers of an output element under a format; none where the format is no quantisation (R67). -/
def quantise (fmt : Config.OutFormat) (v : OutEl) : Option IntEl := fmt.map fun q => q v

/-- What a consumer with a format makes of the element PRESENT's last read returned (R53, R67). -/
def presentedIn (fmt : Config.OutFormat) (s : State) : Option IntEl := s.shown.bind (quantise fmt)

/-- What the machine's own consumer makes of it. -/
def presented (s : State) : Option IntEl := presentedIn Config.outFormat s

/-! ## TM_MEANING (R31, D21) -/

/-- The source layers a target mask names (R31). -/
def layersIn (meaning : Config.TmMeaning) (m : BitVec 6) : List (Fin 6) :=
  ((List.finRange 6).filter fun i => m.getLsbD i.val).map meaning

/-- The layers a mask names on the machine. -/
def layersOf (m : BitVec 6) : List (Fin 6) := layersIn Config.tmMeaning m

/-! ## NUM (R11, D1, U8) -/

/-- The exact rationals, the number system of the rules (D1). -/
def exactNum : Config.Num :=
  { channel := norm6, coeff := coeff16, alpha := coeffAlpha, complement := fun c => 1 - c, blend := blendChannel, up := upChannel,
    down := downChannel }

/-- A raw colour in a number system (R12, R68). -/
def colorIn (N : Config.Num) (c : RawColor) : Color := { c0 := N.channel c.r, c1 := N.channel c.g, c2 := N.channel c.b }

/-- `blend` in a number system (R101). -/
def blendIn (N : Config.Num) (a b : Color) (cA cB : Rat) : Color :=
  { c0 := N.blend a.c0 b.c0 cA cB, c1 := N.blend a.c1 b.c1 cA cB, c2 := N.blend a.c2 b.c2 cA cB }

/-- `blend` with one coefficient and its complement, in a number system (R104, R105). -/
def convexIn (N : Config.Num) (a b : Color) (c : Rat) : Color := blendIn N a b c (N.complement c)

/-- The global blend in a number system (R106, R108). -/
def globalIn (N : Config.Num) (a b : Color) (cf : CfgRec) : Color :=
  blendIn N a b (N.coeff cf.blendCoeffA.toNat) (N.coeff cf.blendCoeffB.toNat)

/-- `up` by the record's factor in a number system (R110, R112, R122). -/
def upIn (N : Config.Num) (c : Color) (cf : CfgRec) : Color := mapColor (N.up (N.coeff cf.masterBrightnessFactor)) c

/-- `down` by the record's factor in a number system (R111, R112, R123). -/
def downIn (N : Config.Num) (c : Color) (cf : CfgRec) : Color := mapColor (N.down (N.coeff cf.masterBrightnessFactor)) c

/-- The top slot's colour after substitution, in a number system (R97). -/
def substituteTopIn (N : Config.Num) (lt lb : LayerPixel) (p3 : Pixel3D) : Color :=
  colorIn N (if lt.is3dSourced then if p3.alpha = 0 then lb.color else p3.color else lt.color)

/-- The bottom slot's colour after substitution, in a number system (R97). -/
def substituteBottomIn (N : Config.Num) (lb : LayerPixel) (p3 : Pixel3D) : Color :=
  if lb.is3dSourced then if p3.alpha = 0 then black else colorIn N p3.color else colorIn N lb.color

/-- The priority procedure in a number system (R103). -/
def resolveIn (N : Config.Num) (st sb : Color) (lt lb : LayerPixel) (p3 : Pixel3D) (cf : CfgRec) : Color :=
  if lt.is3dSourced && bottomInTarget2 lb cf then convexIn N st sb (N.alpha p3.alpha)
  else if lt.alphaBlendEnabled && bottomInTarget2 lb cf then
    if lt.usesPerPixelCoefficient then convexIn N st sb (N.coeff lt.perPixelCoefficient.toNat) else globalIn N st sb cf
  else
    match cf.effectSelect with
    | .none => st
    | .alphaBlend => if topInTarget1 lt cf && bottomInTarget2 lb cf then globalIn N st sb cf else st
    | .brightnessUp => upIn N st cf
    | .brightnessDown => downIn N st cf

/-- The brightness post-processor in a number system (R120). -/
def masterBrightnessIn (N : Config.Num) (cc : Color) (cf : CfgRec) : OutEl :=
  opaqueEl (match cf.masterBrightnessMode with
    | .none => cc
    | .up => upIn N cc cf
    | .down => downIn N cc cf)

/-- `pixel` in a number system: the same four stages, each channel function the realisation's (R133, D1). -/
def pixelIn (N : Config.Num) (L : Config.LayerLayout) (wt wb w3 : Word32) (cf : CfgRec) : OutEl :=
  let lt := decodeLayer L wt
  let lb := decodeLayer L wb
  let p3 := decodeP3d w3
  masterBrightnessIn N (resolveIn N (substituteTopIn N lt lb p3) (substituteBottomIn N lb p3) lt lb p3 cf) cf

/-- What the machine's own realisation, if it has one, makes of the inputs of a pixel. -/
def realisedPixel (L : Config.LayerLayout) (f : Fetched) : Option OutEl :=
  Config.num.map fun N => pixelIn N L f.wt f.wb f.w3 f.cf

end Sys2Proof.Machine
end

