-- ==== Sys2Proof/Laws/Parameters.lean ====
section
/-! SUPPORT. Laws/Parameters.lean: what holds whatever the open arguments of R7 are: the integers a consumer gets after a read, masks
that meet and layers they share, and `pixel` as the realisation in exact rationals. -/

namespace Sys2Proof.Machine

/-! ## OUT_FORMAT -/

@[simp] theorem quantise_none (v : OutEl) : quantise none v = none := rfl

@[simp] theorem quantise_some (q : OutEl → IntEl) (v : OutEl) : quantise (some q) v = some (q v) := rfl

/-- After PRESENT's read of `OUT[y][x]` the consumer holds the quantisation of the element that stands there, under every format
(R53, R67). -/
theorem presentRead_presented {y : Fin 384} {col : Col} {s t : State} (fmt : Config.OutFormat) (h : presentRead y col s = .next t) :
    ∃ v, readBuf s.mem.out (outIndex y.val col) = some v ∧ presentedIn fmt t = quantise fmt v := by
  obtain ⟨-, v, hv, rfl⟩ := presentRead_next.mp h
  exact ⟨v, hv, rfl⟩

/-! ## TM_MEANING -/

theorem mem_layersIn {meaning : Config.TmMeaning} {m : BitVec 6} {layer : Fin 6} :
    layer ∈ layersIn meaning m ↔ m.getLsbD (meaning.symm layer).val = true := by
  simp only [layersIn, List.mem_map, List.mem_filter, List.mem_finRange, true_and]
  constructor
  · rintro ⟨i, hi, rfl⟩
    rwa [Equiv.symm_apply_apply]
  · exact fun h => ⟨meaning.symm layer, h, Equiv.apply_symm_apply _ _⟩

/-- Two masks meet exactly when they name a layer in common, whichever layers the bits stand for: why no rule reads `TM_MEANING`
(R10, R31, D21). -/
theorem intersects_iff_common_layer (meaning : Config.TmMeaning) (a b : BitVec 6) :
    intersects a b = true ↔ ∃ layer, layer ∈ layersIn meaning a ∧ layer ∈ layersIn meaning b := by
  simp only [intersects_iff, meets, mem_layersIn]
  constructor
  · rintro ⟨i, ha, hb⟩
    have hi : i < 6 := BitVec.lt_of_getLsbD ha
    exact ⟨meaning ⟨i, hi⟩, by rwa [Equiv.symm_apply_apply], by rwa [Equiv.symm_apply_apply]⟩
  · rintro ⟨layer, ha, hb⟩
    exact ⟨_, ha, hb⟩

/-! ## NUM -/

theorem substituteTopIn_exact (lt lb : LayerPixel) (p3 : Pixel3D) :
    substituteTopIn exactNum lt lb p3 = substituteTop lt lb p3 := by
  unfold substituteTopIn substituteTop
  split
  · split <;> rfl
  · rfl

theorem substituteBottomIn_exact (lb : LayerPixel) (p3 : Pixel3D) :
    substituteBottomIn exactNum lb p3 = substituteBottom lb p3 := rfl

theorem resolveIn_exact (st sb : Color) (lt lb : LayerPixel) (p3 : Pixel3D) (cf : CfgRec) :
    resolveIn exactNum st sb lt lb p3 cf = resolve st sb lt lb p3 cf := rfl

theorem masterBrightnessIn_exact (cc : Color) (cf : CfgRec) : masterBrightnessIn exactNum cc cf = masterBrightness cc cf := by
  unfold masterBrightnessIn masterBrightness
  cases cf.masterBrightnessMode <;> rfl

/-- `pixel` is the realisation in exact rationals (D1). -/
theorem pixelIn_exact (L : Config.LayerLayout) (wt wb w3 : Word32) (cf : CfgRec) : pixelIn exactNum L wt wb w3 cf = pixel L wt wb w3 cf := by
  simp only [pixelIn, pixel, substituteTopIn_exact, substituteBottomIn_exact, resolveIn_exact, masterBrightnessIn_exact]

end Sys2Proof.Machine
end

