-- ==== Sys2Proof/Laws/PerInstr.lean ====
section
/-! SUPPORT. Laws/PerInstr.lean: statements made once for every instruction. `EncodeFits`: the word of a well-formed operation
fits the width of the format its stage reads (R60, R69, R70, R72, R24). -/

namespace Sys2Proof.Laws.EncodeFits

/-- The word of a well-formed operation fits its format. -/
def Statement (i : Instr) : Prop := i.wellFormed = true → (encode i).toNat < 2 ^ i.format.width

theorem decLt : Statement .decLt := by unfold Statement; decide
theorem decLb : Statement .decLb := by unfold Statement; decide
theorem decP3 : Statement .decP3 := by unfold Statement; decide
theorem subtKeep : Statement .subtKeep := by unfold Statement; decide
theorem subt3d : Statement .subt3d := by unfold Statement; decide
theorem subtFall : Statement .subtFall := by unfold Statement; decide
theorem subbKeep : Statement .subbKeep := by unfold Statement; decide
theorem subb3d : Statement .subb3d := by unfold Statement; decide
theorem subbBlack : Statement .subbBlack := by unfold Statement; decide
theorem resB3d : Statement .resB3d := by unfold Statement; decide
theorem resBpp : Statement .resBpp := by unfold Statement; decide
theorem resBgl : Statement .resBgl := by unfold Statement; decide
theorem resFxnone : Statement .resFxnone := by unfold Statement; decide
theorem resFxnoneM2 : Statement .resFxnoneM2 := by unfold Statement; decide
theorem resFxalpha : Statement .resFxalpha := by unfold Statement; decide
theorem resFxapass : Statement .resFxapass := by unfold Statement; decide
theorem resFxapassM2 : Statement .resFxapassM2 := by unfold Statement; decide
theorem resFxup : Statement .resFxup := by unfold Statement; decide
theorem resFxupM2 : Statement .resFxupM2 := by unfold Statement; decide
theorem resFxdown : Statement .resFxdown := by unfold Statement; decide
theorem resFxdownM2 : Statement .resFxdownM2 := by unfold Statement; decide
theorem mbNone : Statement .mbNone := by unfold Statement; decide
theorem mbUp : Statement .mbUp := by unfold Statement; decide
theorem mbDown : Statement .mbDown := by unfold Statement; decide

theorem pixel (screen row col : Nat) : Statement (.pixel screen row col) := by
  intro h
  obtain ⟨hs, hr, hc⟩ := (wellFormed_pixel screen row col).mp h
  have := linear_lt hs hr hc
  simp only [encode, Instr.format, KeyFormat.width, BitVec.toNat_ofNat]
  omega

theorem frame (screen3d : Nat) : Statement (.frame screen3d) := by
  intro h
  have := (wellFormed_frame screen3d).mp h
  simp only [encode, Instr.format, KeyFormat.width, BitVec.toNat_ofNat]
  omega

end Sys2Proof.Laws.EncodeFits
end

