-- ==== Sys2Proof/Tests/Slice0.lean ====
section
/-! SUPPORT. Tests/Slice0.lean: tests whose expected results are the vectors of spec/95_test_vectors.md (V1 to V71, X1 to X8,
P1 to P3) and its encodings, each theorem naming its vector; then, for each obligation that has hypotheses, a state and operands
that meet all of them (`witness_<Obligation>`). -/

namespace Sys2Proof.Tests

open Sys2Proof.Machine

/-! ## Well-formedness: an ill-formed term for each check (R24, R42) -/

theorem test_wellFormed_screen : (Instr.pixel 2 0 0).wellFormed = false ∧ (Instr.pixel 1 0 0).wellFormed = true := by decide
theorem test_wellFormed_row : (Instr.pixel 0 192 0).wellFormed = false ∧ (Instr.pixel 0 191 0).wellFormed = true := by decide
theorem test_wellFormed_col : (Instr.pixel 0 0 256).wellFormed = false ∧ (Instr.pixel 0 0 255).wellFormed = true := by decide
theorem test_wellFormed_screen3d : (Instr.frame 2).wellFormed = false ∧ (Instr.frame 1).wellFormed = true := by decide

/-! ## Decoding: words written out from the spec's encodings -/

/-- V3: all ones. -/
theorem test_decode_allOnes : decodeLayer defaultLayout 0xFFFFFFFF =
    { color := ⟨63, 63, 63⟩, is3dSourced := true, alphaBlendEnabled := true, usesPerPixelCoefficient := true,
      perPixelCoefficient := 15, targetMask := 0b111111 } := by decide

/-- V4, V5: the zero word, and the ignored bit 22 alone. -/
theorem test_decode_ignoredBit : decodeLayer defaultLayout 0x00400000 =
    { color := ⟨0, 0, 0⟩, is3dSourced := false, alphaBlendEnabled := false, usesPerPixelCoefficient := false,
      perPixelCoefficient := 0, targetMask := 0 }
    ∧ decodeLayer defaultLayout 0x00400000 = decodeLayer defaultLayout 0 := by decide

/-- V6: colour (10, 20, 30), mask 000010. -/
theorem test_decode_bottom : (decodeLayer defaultLayout 0x0801E50A).color = ⟨10, 20, 30⟩
    ∧ (decodeLayer defaultLayout 0x0801E50A).targetMask = 0b000010
    ∧ (decodeLayer defaultLayout 0x0801E50A).is3dSourced = false := by decide

/-- V9, V10: the 3D word's bits 31:23 are ignored. -/
theorem test_decode_p3d : decodeP3d 0xFFFFFFFF = { color := ⟨63, 63, 63⟩, alpha := 31 }
    ∧ decodeP3d 0xFF800000 = { color := ⟨0, 0, 0⟩, alpha := 0 } := by decide

/-- V12: the fields pack to the words of V2 and V8. -/
theorem test_encode_words :
    encodeLayer defaultLayout
      { color := ⟨1, 2, 3⟩, is3dSourced := true, alphaBlendEnabled := true, usesPerPixelCoefficient := true,
        perPixelCoefficient := 5, targetMask := 0b100001 } = 0x87943081
    ∧ encodeP3d { color := ⟨10, 20, 30⟩, alpha := 16 } = 0x0041E50A := by decide

/-- R69: the substitution keys; with the top bit 0 the alpha bit is free. -/
theorem test_decode_subkeys : decode .subkeyT 0b00 = .ok .subtKeep ∧ decode .subkeyT 0b01 = .ok .subtKeep
    ∧ decode .subkeyT 0b10 = .ok .subt3d ∧ decode .subkeyT 0b11 = .ok .subtFall
    ∧ decode .subkeyB 0b01 = .ok .subbKeep ∧ decode .subkeyB 0b10 = .ok .subb3d
    ∧ decode .subkeyB 0b11 = .ok .subbBlack := by decide

/-- R71, the blend rows, at the keys of V21, V24, V27, V31, V35. -/
theorem test_decode_reskey_blends : decode .reskey 0b1000100 = .ok .resB3d ∧ decode .reskey 0b1001101 = .ok .resB3d
    ∧ decode .reskey 0b0110100 = .ok .resBpp ∧ decode .reskey 0b0100100 = .ok .resBgl
    ∧ decode .reskey 0b0100110 = .ok .resBgl := by decide

/-- R71, the effect rows, at the keys of V14, V34, V37, V39, V38, V33 and with the effects' `M2 = 1` twins. -/
theorem test_decode_reskey_effects : decode .reskey 0b1000000 = .ok .resFxnone ∧ decode .reskey 0b0010100 = .ok .resFxnoneM2
    ∧ decode .reskey 0b0001101 = .ok .resFxalpha ∧ decode .reskey 0b0001001 = .ok .resFxapass
    ∧ decode .reskey 0b0000101 = .ok .resFxapassM2 ∧ decode .reskey 0b0100010 = .ok .resFxup
    ∧ decode .reskey 0b0000110 = .ok .resFxupM2 ∧ decode .reskey 0b0000011 = .ok .resFxdown
    ∧ decode .reskey 0b0000111 = .ok .resFxdownM2 := by decide

/-- R72, X8: three modes, and the reserved code. -/
theorem test_decode_mbkey : decode .mbkey 0b00 = .ok .mbNone ∧ decode .mbkey 0b01 = .ok .mbUp
    ∧ decode .mbkey 0b10 = .ok .mbDown ∧ decode .mbkey 0b11 = .error .badModeCode := by decide

/-- R82 to R84: the decoder's operations are selected by every word of their slots. -/
theorem test_decode_layerWords : decode .layerT 0x87943081 = .ok .decLt ∧ decode .layerB 0xFFFFFFFF = .ok .decLb
    ∧ decode .p3d 0x0041E50A = .ok .decP3 := by decide

/-- R24: the last position is 98303 = (1, 191, 255); 98304 names none. P4: `(0, 10, 0)` is position 2560. -/
theorem test_decode_positions : decode .position 98303 = .ok (.pixel 1 191 255)
    ∧ decode .position 98304 = .error .noSuchPosition ∧ decode .position 2560 = .ok (.pixel 0 10 0)
    ∧ decode .frameArg 1 = .ok (.frame 1) ∧ decode .frameArg 2 = .error (.tooWide .frameArg) := by decide

/-! ## Arithmetic: V62 to V71 -/

theorem test_blend_ends : blend ⟨1, 0, 1/2⟩ ⟨0, 1, 1/4⟩ 1 0 = ⟨1, 0, 1/2⟩ ∧ blend ⟨1, 0, 1/2⟩ ⟨0, 1, 1/4⟩ 0 1 = ⟨0, 1, 1/4⟩
    ∧ blend ⟨1, 0, 1/2⟩ ⟨0, 1, 1/4⟩ (1/2) (1/2) = ⟨1/2, 1/2, 3/8⟩ := by decide +kernel

theorem test_blend_clamps_sum_once : blend ⟨1, 1/2, 0⟩ ⟨1, 1/2, 1⟩ (31/16) (31/16) = ⟨1, 1, 1⟩
    ∧ blend ⟨1/2, 1/2, 1/2⟩ ⟨0, 0, 0⟩ (31/16) 0 = ⟨31/32, 31/32, 31/32⟩ := by decide +kernel

theorem test_up_down : up ⟨0, 1/2, 1⟩ (1/2) = ⟨1/2, 3/4, 1⟩ ∧ down ⟨0, 1/2, 1⟩ (1/2) = ⟨0, 1/4, 1/2⟩
    ∧ up ⟨1/2, 1/2, 1/2⟩ (3/2) = ⟨1, 1, 1⟩ ∧ down ⟨1/2, 1/2, 1/2⟩ (3/2) = ⟨0, 0, 0⟩
    ∧ up (down ⟨1/2, 1/2, 1/2⟩ (1/2)) (1/2) = ⟨5/8, 5/8, 5/8⟩ := by decide +kernel

/-! ## One step of each operation -/

/-- A record with the fields the vectors name. -/
def cfg (mbf : Nat) (mbm : MasterMode) (fx : Effect) (t1 t2 : BitVec 6) (eva evb : BitVec 5) : CfgRec :=
  { masterBrightnessFactor := mbf, masterBrightnessMode := mbm, effectSelect := fx, target1Mask := t1, target2Mask := t2,
    blendCoeffA := eva, blendCoeffB := evb }

/-- `CFG{}`. -/
def plain : CfgRec := cfg 0 .none .none 0 0 0 0

/-- A layout that is not the default. -/
def reversed : Config.LayerLayout := ⟨28, 27, 26, 25, 18⟩

/-- A frame in progress whose one invocation has these latches. -/
def stage (l : Latches) : State :=
  { State.reset with phase := .run, screen3d := some 0, started := [(0, ())], cur := some ⟨firstPos, l⟩ }

/-- The latches after an operation. -/
def after (i : Instr) (l : Latches) : Option Latches :=
  match exec i (stage l) with
  | .next t => t.cur.map (·.latches)
  | .fault _ => none
  | .refused _ => none

/-- `LW(63,0,32 | k=4 a=1 p=1 m=000001)` decoded, the top of V27. -/
def top27 : LayerPixel :=
  { color := ⟨63, 0, 32⟩, is3dSourced := false, alphaBlendEnabled := true, usesPerPixelCoefficient := true,
    perPixelCoefficient := 4, targetMask := 1 }

/-- `LW(10,20,30 | d=1)` decoded, the bottom of V18. -/
def bottom18 : LayerPixel :=
  { color := ⟨10, 20, 30⟩, is3dSourced := true, alphaBlendEnabled := false, usesPerPixelCoefficient := false,
    perPixelCoefficient := 0, targetMask := 0 }

/-- `W3(63,0,21 | A=16)` decoded, the 3D pixel of V23. -/
def p3of23 : Pixel3D := { color := ⟨63, 0, 21⟩, alpha := 16 }

/-- Latches with the slot colours `ST = (1, 0, 32/63)` and `SB = (0, 1, 32/63)` of V27 to V42 and a record. -/
def slots (cf : CfgRec) : Latches :=
  { Latches.empty with st := some ⟨1, 0, 32/63⟩, sb := some ⟨0, 1, 32/63⟩, cf := some cf, lt := some top27, p3 := some p3of23 }

/-- V2, V6, V8. -/
theorem test_exec_decLt : (after .decLt { Latches.empty with wt := some 0x87943081 }).map (·.lt) =
    some (some
      { color := ⟨1, 2, 3⟩, is3dSourced := true, alphaBlendEnabled := true, usesPerPixelCoefficient := true,
        perPixelCoefficient := 5, targetMask := 0b100001 }) := by decide
theorem test_exec_decLb : (after .decLb { Latches.empty with wt := some 0x87943081, wb := some 0x0801E50A }).map
    (fun l => (l.lt, l.lb.map (·.color))) = some (none, some ⟨10, 20, 30⟩) := by decide
/-- V2's fields packed under another layout (R61: `m` 23:18, bit 24 ignored, `p` 25, `a` 26, `d` 27, `k` 31:28) decode to the
same record on a machine that has that layout. -/
theorem test_exec_decLt_layout :
    (match exec .decLt { stage { Latches.empty with wt := some 0x5E843081 } with layout := reversed } with
    | .next t => t.cur.map (·.latches.lt)
    | .fault _ => none
    | .refused _ => none) = some (some
      { color := ⟨1, 2, 3⟩, is3dSourced := true, alphaBlendEnabled := true, usesPerPixelCoefficient := true,
        perPixelCoefficient := 5, targetMask := 0b100001 }) := by decide
theorem test_exec_decP3 : (after .decP3 { Latches.empty with w3 := some 0x0041E50A }).map (·.p3) =
    some (some { color := ⟨10, 20, 30⟩, alpha := 16 }) := by decide

/-- V27's top. -/
theorem test_exec_subtKeep : (after .subtKeep { Latches.empty with lt := some top27, lb := some bottom18 }).map (·.st) =
    some (some ⟨1, 0, 32/63⟩) := by decide +kernel
/-- V23. -/
theorem test_exec_subt3d : (after .subt3d { Latches.empty with lt := some top27, p3 := some p3of23 }).map (·.st) =
    some (some ⟨1, 0, 1/3⟩) := by decide +kernel
/-- V18: the decoded bottom colour, even where `SB` is already black. -/
theorem test_exec_subtFall : (after .subtFall { Latches.empty with lb := some bottom18, sb := some black }).map (·.st) =
    some (some ⟨10/63, 20/63, 10/21⟩) := by decide +kernel
/-- V6's bottom colour. -/
theorem test_exec_subbKeep : (after .subbKeep { Latches.empty with lt := some top27, lb := some bottom18 }).map (·.sb) =
    some (some ⟨10/63, 20/63, 10/21⟩) := by decide +kernel
/-- V19. -/
theorem test_exec_subb3d : (after .subb3d { Latches.empty with lb := some bottom18, p3 := some p3of23 }).map (·.sb) =
    some (some ⟨1, 0, 1/3⟩) := by decide +kernel
/-- V17, V18. -/
theorem test_exec_subbBlack : (after .subbBlack { Latches.empty with lb := some bottom18 }).map (·.sb) =
    some (some ⟨0, 0, 0⟩) := by decide +kernel

/-- V23's weights 16/31 and 15/31 on the colours of V27. -/
theorem test_exec_resB3d : (after .resB3d { slots plain with st := some ⟨1, 0, 1/3⟩, sb := some ⟨0, 1, 1/3⟩ }).map (·.cc) =
    some (some ⟨16/31, 15/31, 1/3⟩) := by decide +kernel
/-- V27: the record's coefficients 31 and 31 are not used. -/
theorem test_exec_resBpp : (after .resBpp (slots (cfg 0 .none .none 0 2 31 31))).map (·.cc) =
    some (some ⟨1/4, 3/4, 32/63⟩) := by decide +kernel
/-- V31, V32. -/
theorem test_exec_resBgl : (after .resBgl (slots (cfg 0 .none .none 0 2 8 8))).map (·.cc) = some (some ⟨1/2, 1/2, 32/63⟩) := by
  decide +kernel
theorem test_exec_resBgl_saturates : (after .resBgl (slots (cfg 0 .none .none 0 2 31 31))).map (·.cc) =
    some (some ⟨1, 1, 1⟩) := by decide +kernel
/-- V36. -/
theorem test_exec_resFxnone : (after .resFxnone (slots (cfg 0 .none .none 1 2 8 8))).map (·.cc) = some (some ⟨1, 0, 32/63⟩)
    ∧ (after .resFxnoneM2 (slots (cfg 0 .none .none 1 2 8 8))).map (·.cc) = some (some ⟨1, 0, 32/63⟩) := by decide +kernel
/-- V37, V42. -/
theorem test_exec_resFxalpha : (after .resFxalpha (slots (cfg 0 .none .alphaBlend 1 2 10 6))).map (·.cc) =
    some (some ⟨5/8, 3/8, 32/63⟩) := by decide +kernel
theorem test_exec_resFxalpha_black : (after .resFxalpha (slots (cfg 0 .none .alphaBlend 1 2 0 0))).map (·.cc) =
    some (some ⟨0, 0, 0⟩) := by decide +kernel
/-- V38, V39. -/
theorem test_exec_resFxapass : (after .resFxapass (slots (cfg 0 .none .alphaBlend 1 2 10 6))).map (·.cc) =
      some (some ⟨1, 0, 32/63⟩)
    ∧ (after .resFxapassM2 (slots (cfg 0 .none .alphaBlend 1 2 10 6))).map (·.cc) = some (some ⟨1, 0, 32/63⟩) := by
  decide +kernel
/-- V43, V52: factor 1/2; a factor of 40 is not masked to 8. -/
theorem test_exec_resFxup :
    (after .resFxup { slots (cfg 8 .none .brightnessUp 0 0 0 0) with st := some ⟨0, 1/3, 1⟩ }).map (·.cc) =
      some (some ⟨1/2, 2/3, 1⟩)
    ∧ (after .resFxupM2 { slots (cfg 40 .none .brightnessUp 0 0 0 0) with st := some ⟨0, 1/3, 1⟩ }).map (·.cc) =
      some (some ⟨1, 1, 1⟩) := by decide +kernel
/-- V49, V51. -/
theorem test_exec_resFxdown :
    (after .resFxdown { slots (cfg 12 .none .brightnessDown 0 0 0 0) with st := some ⟨1, 2/3, 1/3⟩ }).map (·.cc) =
      some (some ⟨1/4, 1/6, 1/12⟩)
    ∧ (after .resFxdownM2 { slots (cfg 31 .none .brightnessDown 0 0 0 0) with st := some ⟨0, 1/3, 1⟩ }).map (·.cc) =
      some (some ⟨0, 0, 0⟩) := by decide +kernel

/-- V55: the factor is not read, nor is the record. -/
theorem test_exec_mbNone : (after .mbNone { Latches.empty with cc := some ⟨0, 1/3, 1⟩ }).map (·.oc) =
    some (some ⟨0, 1/3, 1, 1⟩) := by decide +kernel
/-- V53. -/
theorem test_exec_mbUp : (after .mbUp { Latches.empty with cc := some ⟨0, 1/3, 1⟩, cf := some (cfg 4 .up .none 0 0 0 0) }).map
    (·.oc) = some (some ⟨1/4, 1/2, 1, 1⟩) := by decide +kernel
/-- V54. -/
theorem test_exec_mbDown : (after .mbDown { Latches.empty with cc := some ⟨0, 1/3, 1⟩, cf := some (cfg 4 .down .none 0 0 0 0) }).map
    (·.oc) = some (some ⟨0, 1/4, 3/4, 1⟩) := by decide +kernel

/-- R14, R22: latches no write has reached: the fault names the first in the order of the Operands line (log 2), though R104's
pseudocode reads `P3` first. -/
theorem test_exec_latch_fault : exec .resB3d (stage { slots plain with sb := none, p3 := none })
    = .fault (.latchHoldsNoValue .sb) := rfl

/-! ## The pixel function: whole-pixel vectors -/

/-- V23: rules 1, 2 and 3 all match; rule 1 wins. -/
theorem test_pixel_priority : pixel defaultLayout 0x07BC0000 0x08015FC0 0x0041503F (cfg 0 .none .alphaBlend 1 2 16 0)
    = ⟨16/31, 15/31, 1/3, 1⟩ := by decide +kernel
/-- V18: the two fallbacks differ. -/
theorem test_pixel_fallbacks : pixel defaultLayout 0x00807185 0x0081E50A 0x0003FFFF plain = ⟨10/63, 20/63, 10/21, 1⟩ := by decide +kernel
/-- V26: under rule 1 with alpha 0 the bottom is black. -/
theorem test_pixel_black : pixel defaultLayout 0x00807185 0x0481E50A 0x0003FFFF (cfg 0 .none .none 0 1 0 0) = ⟨0, 0, 0, 1⟩ := by
  decide +kernel
/-- V30: ignored bits everywhere, same result as V27. -/
theorem test_pixel_ignoredBits : pixel defaultLayout 0x0752003F 0x0B660FC0 0xFF9C3081 (cfg 0 .none .none 0 2 31 31) = ⟨1/4, 3/4, 32/63, 1⟩ := by
  decide +kernel
/-- V48: the source's end-to-end scenario (S7). -/
theorem test_pixel_scenario : pixel defaultLayout 0x0000003F 0 0 (cfg 8 .none .brightnessDown 0 0 0 0) = ⟨1/2, 0, 0, 1⟩ := by decide +kernel
/-- V59: the clamp between the two stages. -/
theorem test_pixel_clampBetween : pixel defaultLayout 0x0003F540 0x00009249 0 (cfg 24 .up .brightnessUp 0 0 0 0) = ⟨1, 1, 1, 1⟩ := by
  decide +kernel
/-- V60: AlphaBlend, then master Up (S6). -/
theorem test_pixel_composes : pixel defaultLayout 0x0402003F 0x08020FC0 0 (cfg 8 .up .alphaBlend 1 2 8 8) = ⟨3/4, 3/4, 95/126, 1⟩ := by
  decide +kernel
/-- V25, P2 pixel (0, 0, 1): the 3D colour at alpha 16. -/
theorem test_pixel_p2 : pixel defaultLayout 0x048071C7 0x8000003F 0x00400FC0 (cfg 0 .none .none 0 32 0 0) = ⟨15/31, 16/31, 0, 1⟩ := by
  decide +kernel
/-- P3 row 3: a factor of 20 twice. -/
theorem test_pixel_p3 : pixel defaultLayout 0x00015ABF 0 0 (cfg 20 .down .brightnessUp 0 0 0 0) = ⟨0, 0, 0, 1⟩ := by decide +kernel

/-! ## Steps of the machine -/

/-- P2's pixel (1, 0, 2) alone: its words and its record are written, its frame is in progress. -/
def p2Pos : Pos := ⟨1, 0, 2⟩

def p2Mem : Memory :=
  writeTop p2Pos 0x00015555 (writeBot p2Pos 0 (writeG3d 0 2 0x007C0FC0 (writeCfg 1 0 (cfg 8 .down .none 0 0 0 0) Memory.reset)))

def p2 : State := { State.reset with phase := .run, screen3d := some 0, mem := p2Mem }

/-- P2: `OUT[192][2] = (1/6, 1/6, 1/6, 1)`, index `192 * 256 + 2`, and the invocation has run. -/
theorem test_exec_pixel : (match exec (.pixel 1 0 2) p2 with
    | .next t => some (t.mem.out, t.started, t.phase)
    | .fault _ => none
    | .refused _ => none) = some ([(49154, ⟨1/6, 1/6, 1/6, 1⟩)], [(49154, ())], .run) := by decide +kernel

/-- X3: an input element that holds no value faults the invocation that reads it. -/
theorem test_exec_pixel_missing : exec (.pixel 0 0 2) p2 = .fault (.inputHoldsNoValue .top 2) := by rfl

/-- X3 under FRAME: the frame is started, and its first invocation faults. -/
theorem test_exec_frame_missing : exec (.frame 0) { p2 with phase := .idle } = .fault (.inputHoldsNoValue .top 0) := by rfl

/-- X4: the flag `d` on screen 1 refuses `SCREEN_3D = 0`. -/
theorem test_step_offScreen : step { State.reset with
    mem := writeTop ⟨1, 5, 7⟩ 0x00800000 Memory.reset, moves := [.frameStart 0] } = .refused .flag3DOffScreen := by rfl

/-- X4 under another layout: there bit 27 is the flag `d`, and bit 23 is none. -/
theorem test_step_offScreen_layout : step { State.reset with
      layout := reversed, mem := writeTop ⟨1, 5, 7⟩ 0x08000000 Memory.reset, moves := [.frameStart 0] } = .refused .flag3DOffScreen
    ∧ ∃ t, step { State.reset with
      layout := reversed, mem := writeTop ⟨1, 5, 7⟩ 0x00800000 Memory.reset, moves := [.frameStart 0] } = .next t :=
  ⟨rfl, _, rfl⟩

/-- X4: the same buffers are accepted with `SCREEN_3D = 1`. -/
theorem test_step_onScreen : (match step { State.reset with
      mem := writeTop ⟨1, 5, 7⟩ 0x00800000 Memory.reset, moves := [.frameStart 1] } with
    | .next t => some (t.phase, t.screen3d)
    | .fault _ => none
    | .refused _ => none) = some (.run, some 1) := by decide

/-- X5, X6, X7, X8. -/
theorem test_step_refusals : step { p2 with moves := [.writeCfg 0 0 plain] } = .refused .inputWrittenDuringRun
    ∧ step { p2 with moves := [.readOut 0 0] } = .refused .readBeforeDone
    ∧ step { p2 with phase := .done, moves := [.frameStart 0] } = .refused .startNotIdle
    ∧ step { State.reset with moves := [.writeCfgCodes 0 0 ⟨0, 3, 0, 0, 0, 0, 0⟩] } = .refused .badModeCode := by
  exact ⟨rfl, rfl, rfl, rfl⟩

/-- The step runs the operation a placed word selects, as the first after reset: V24's key, V2's word. -/
theorem test_step_placed : (match step (State.reset.withFetchWord 8 0b1001101) with
      | .next t => t.cur.map (·.latches.cc)
      | .fault _ => none
      | .refused _ => none) = some (some ⟨0, 0, 0⟩)
    ∧ decodeTableWord 8 0b1001101 = some .resB3d ∧ decodeTableWord 32 0x87943081 = some .decLt := by decide +kernel

/-- With nothing to do a machine that is Idle waits. -/
theorem test_step_reset : step State.reset = .next State.reset := rfl

/-! ## The open arguments of R7 -/

/-- A mask of bits 0 and 5 names the two layers those bits stand for, here under a meaning that exchanges 5 and 2 (R31). -/
theorem test_layers_of_mask : layersIn (Equiv.swap 5 2) 0b100001 = [0, 2] := by decide

/-- A realisation whose channels are 0 and 3: a kept top colour passes through it and nothing else (R68, R91, R107, R121). -/
theorem test_pixel_in_other_numbers :
    pixelIn { exactNum with channel := fun v => if v.toNat < 32 then 0 else 3 } defaultLayout 63 0 0
      { masterBrightnessFactor := 0, masterBrightnessMode := .none, effectSelect := .none, target1Mask := 0, target2Mask := 0,
        blendCoeffA := 0, blendCoeffB := 0 } = { r := 3, g := 0, b := 0, a := 1 } := by decide

/-! ## Witnesses: encoding -/

theorem witness_DecodeEncodeIdentity : (Instr.pixel 1 191 255).wellFormed = true ∧ (Instr.frame 1).wellFormed = true
    ∧ (Instr.pixel 0 0 0).wellFormed = true ∧ Instr.resFxdownM2.wellFormed = true := by decide

/-- The default layout, and one that reverses the fields. -/
theorem witness_LayerRoundTripAnyLayout : defaultLayout.Wf
    ∧ reversed.Wf := by decide

theorem witness_TableFollowsPriority : ((true = true) ↔ meets 1 1) ∧ ((false = true) ↔ meets 2 1) := by
  rw [← intersects_iff, ← intersects_iff]; decide

theorem witness_PackedRecordRoundTrip : decodeCfg ⟨40, 2, 3, 1, 2, 31, 31⟩ = some (cfg 40 .down .brightnessDown 1 2 31 31) := by
  decide

/-! ## Witnesses: the stage operations. `stage` with every latch an operation reads. -/

/-- The invocation of `stage l`. -/
def inv (l : Latches) : Invocation := ⟨firstPos, l⟩

def words : Latches :=
  { Latches.empty with wt := some 0x87943081, wb := some 0x0801E50A, w3 := some 0x0041E50A, cf := some plain }

theorem witness_DecLtDecodesTopWord : (stage words).cur = some (inv words) ∧ (inv words).latches.wt = some 0x87943081
    ∧ (stage words).layout = defaultLayout ∧ ({ stage words with layout := reversed } : State).cur = some (inv words) :=
  ⟨rfl, rfl, rfl, rfl⟩
theorem witness_DecLbDecodesBottomWord : (stage words).cur = some (inv words) ∧ (inv words).latches.wb = some 0x0801E50A
    ∧ (stage words).layout = defaultLayout ∧ ({ stage words with layout := reversed } : State).cur = some (inv words) :=
  ⟨rfl, rfl, rfl, rfl⟩
theorem witness_DecP3Decodes3dWord : (stage words).cur = some (inv words) ∧ (inv words).latches.w3 = some 0x0041E50A :=
  ⟨rfl, rfl⟩

theorem witness_ColourScaleIs63 : (62 : BitVec 6).toNat < (63 : BitVec 6).toNat ∧ norm6 63 = norm6 63 := by decide +kernel

/-- Two decodes, and a top and a bottom substitution, one after the other. -/
theorem witness_IndependentOperationsCommute :
    (∃ t u, exec .decLt (stage words) = .next t ∧ exec .decP3 t = .next u)
      ∧ (∃ t u, exec .subtFall (stage { words with lb := some bottom18 }) = .next t ∧ exec .subbBlack t = .next u)
      ∧ ∃ t u, exec .subbKeep (stage { words with lb := some bottom18, p3 := some p3of23 }) = .next t ∧ exec .subt3d t = .next u :=
  ⟨⟨_, _, rfl, rfl⟩, ⟨_, _, rfl, rfl⟩, ⟨_, _, rfl, rfl⟩⟩

/-- Decoded latches: a top that is not 3D-sourced, a bottom that is, a 3D pixel. -/
def decoded : Latches := { words with lt := some top27, lb := some bottom18, p3 := some p3of23 }

theorem witness_SubtKeepKeepsTopColour : top27.is3dSourced = false ∧ (stage decoded).cur = some (inv decoded)
    ∧ (inv decoded).latches.lt = some top27 := ⟨rfl, rfl, rfl⟩
theorem witness_Subt3dTakes3dColour : bottom18.is3dSourced = true ∧ p3of23.alpha ≠ 0 ∧ (stage decoded).cur = some (inv decoded)
    ∧ (inv decoded).latches.p3 = some p3of23 := ⟨rfl, by decide, rfl, rfl⟩
theorem witness_SubtFallTakesBottomColour : bottom18.is3dSourced = true ∧ (⟨⟨63, 63, 63⟩, 0⟩ : Pixel3D).alpha = 0
    ∧ (stage decoded).cur = some (inv decoded) ∧ (inv decoded).latches.lb = some bottom18 := ⟨rfl, rfl, rfl, rfl⟩
theorem witness_SubbKeepKeepsBottomColour : top27.is3dSourced = false ∧ (stage decoded).cur = some (inv decoded)
    ∧ (inv decoded).latches.lb = some bottom18 := ⟨rfl, rfl, rfl⟩
theorem witness_Subb3dTakes3dColour : bottom18.is3dSourced = true ∧ p3of23.alpha ≠ 0 ∧ (stage decoded).cur = some (inv decoded)
    ∧ (inv decoded).latches.p3 = some p3of23 := ⟨rfl, by decide, rfl, rfl⟩
theorem witness_SubbBlackWritesBlack : bottom18.is3dSourced = true ∧ (⟨⟨63, 63, 63⟩, 0⟩ : Pixel3D).alpha = 0
    ∧ (stage decoded).cur = some (inv decoded) := ⟨rfl, rfl, rfl⟩
theorem witness_SubstitutionTable : top27.is3dSourced = false := rfl

/-- A layer pixel with the given flags and mask. -/
def lay (d a p : Bool) (m : BitVec 6) : LayerPixel := flagsPixel d a p m

theorem meets_1_1 : meets 1 1 := by rw [← intersects_iff]; decide
theorem not_meets_2_1 : ¬ meets 2 1 := by rw [← intersects_iff]; decide

/-- A bottom in target 2, a bottom out of it, and records of each effect with both target masks 1. -/
def inTwo : LayerPixel := lay false false false 1
def outTwo : LayerPixel := lay false false false 2
def fx (e : Effect) : CfgRec := cfg 31 .none e 1 1 31 31

/-- Every latch the resolver reads, and the record. -/
def substituted (cf : CfgRec) : Latches := { slots cf with lb := some inTwo }

theorem witness_ResB3dBlendsBy3dAlpha : (lay true true true 1).is3dSourced = true
    ∧ meets inTwo.targetMask (fx .alphaBlend).target2Mask
    ∧ (stage (substituted plain)).cur = some (inv (substituted plain)) ∧ (substituted plain).st = some ⟨1, 0, 32/63⟩
    ∧ (substituted plain).sb = some ⟨0, 1, 32/63⟩ ∧ (substituted plain).p3 = some p3of23 :=
  ⟨rfl, meets_1_1, rfl, rfl, rfl, rfl⟩
theorem witness_ResBppBlendsByPixelCoefficient : top27.is3dSourced = false ∧ top27.alphaBlendEnabled = true
    ∧ top27.usesPerPixelCoefficient = true ∧ meets inTwo.targetMask (fx .none).target2Mask
    ∧ (stage (substituted plain)).cur = some (inv (substituted plain)) ∧ (substituted plain).st = some ⟨1, 0, 32/63⟩
    ∧ (substituted plain).sb = some ⟨0, 1, 32/63⟩ ∧ (substituted plain).lt = some top27 :=
  ⟨rfl, rfl, rfl, meets_1_1, rfl, rfl, rfl, rfl⟩
theorem witness_ResBglBlendsByRecord : (lay false true false 0).is3dSourced = false
    ∧ (lay false true false 0).alphaBlendEnabled = true ∧ (lay false true false 0).usesPerPixelCoefficient = false
    ∧ meets inTwo.targetMask (fx .none).target2Mask
    ∧ (stage (substituted (fx .none))).cur = some (inv (substituted (fx .none)))
    ∧ (substituted (fx .none)).st = some ⟨1, 0, 32/63⟩ ∧ (substituted (fx .none)).sb = some ⟨0, 1, 32/63⟩
    ∧ (substituted (fx .none)).cf = some (fx .none) := ⟨rfl, rfl, rfl, meets_1_1, rfl, rfl, rfl, rfl⟩
theorem witness_ResFxnonePassesTop : (fx .none).effectSelect = .none ∧ ¬ meets outTwo.targetMask (fx .none).target2Mask
    ∧ meets inTwo.targetMask (fx .none).target2Mask ∧ inTwo.is3dSourced = false ∧ inTwo.alphaBlendEnabled = false
    ∧ (stage (substituted plain)).cur = some (inv (substituted plain)) ∧ (substituted plain).st = some ⟨1, 0, 32/63⟩ :=
  ⟨rfl, not_meets_2_1, meets_1_1, rfl, rfl, rfl, rfl⟩
theorem witness_ResFxalphaBlendsByRecord : (fx .alphaBlend).effectSelect = .alphaBlend
    ∧ meets inTwo.targetMask (fx .alphaBlend).target1Mask ∧ meets inTwo.targetMask (fx .alphaBlend).target2Mask
    ∧ inTwo.is3dSourced = false ∧ inTwo.alphaBlendEnabled = false
    ∧ (stage (substituted (fx .alphaBlend))).cur = some (inv (substituted (fx .alphaBlend)))
    ∧ (substituted (fx .alphaBlend)).st = some ⟨1, 0, 32/63⟩ ∧ (substituted (fx .alphaBlend)).sb = some ⟨0, 1, 32/63⟩
    ∧ (substituted (fx .alphaBlend)).cf = some (fx .alphaBlend) :=
  ⟨rfl, meets_1_1, meets_1_1, rfl, rfl, rfl, rfl, rfl, rfl⟩
/-- The top `outTwo` misses target 1, the bottom `inTwo` is in target 2. -/
theorem witness_ResFxapassPassesTop : (fx .alphaBlend).effectSelect = .alphaBlend
    ∧ ¬ meets outTwo.targetMask (fx .alphaBlend).target2Mask ∧ meets inTwo.targetMask (fx .alphaBlend).target2Mask
    ∧ ¬ meets outTwo.targetMask (fx .alphaBlend).target1Mask ∧ outTwo.is3dSourced = false ∧ outTwo.alphaBlendEnabled = false
    ∧ (stage (substituted plain)).cur = some (inv (substituted plain)) ∧ (substituted plain).st = some ⟨1, 0, 32/63⟩ :=
  ⟨rfl, not_meets_2_1, meets_1_1, not_meets_2_1, rfl, rfl, rfl, rfl⟩
theorem witness_ResFxupBrightens : (fx .brightnessUp).effectSelect = .brightnessUp
    ∧ ¬ meets outTwo.targetMask (fx .brightnessUp).target2Mask ∧ meets inTwo.targetMask (fx .brightnessUp).target2Mask
    ∧ outTwo.is3dSourced = false ∧ outTwo.alphaBlendEnabled = false
    ∧ (stage (substituted (fx .brightnessUp))).cur = some (inv (substituted (fx .brightnessUp)))
    ∧ (substituted (fx .brightnessUp)).st = some ⟨1, 0, 32/63⟩
    ∧ (substituted (fx .brightnessUp)).cf = some (fx .brightnessUp) :=
  ⟨rfl, not_meets_2_1, meets_1_1, rfl, rfl, rfl, rfl, rfl⟩
theorem witness_ResFxdownDarkens : (fx .brightnessDown).effectSelect = .brightnessDown
    ∧ ¬ meets outTwo.targetMask (fx .brightnessDown).target2Mask ∧ meets inTwo.targetMask (fx .brightnessDown).target2Mask
    ∧ outTwo.is3dSourced = false ∧ outTwo.alphaBlendEnabled = false
    ∧ (stage (substituted (fx .brightnessDown))).cur = some (inv (substituted (fx .brightnessDown)))
    ∧ (substituted (fx .brightnessDown)).st = some ⟨1, 0, 32/63⟩
    ∧ (substituted (fx .brightnessDown)).cf = some (fx .brightnessDown) :=
  ⟨rfl, not_meets_2_1, meets_1_1, rfl, rfl, rfl, rfl, rfl⟩

/-- A channel of 1/3 with the factors 1/2, 1 (where the two clauses meet) and 31/16; the field value 16. -/
theorem witness_BrightnessSaturatesAt16 : ((0 : Rat) ≤ 1/3 ∧ (1/3 : Rat) ≤ 1 ∧ (0 : Rat) ≤ 1/2 ∧ (1/2 : Rat) ≤ 1)
    ∧ ((0 : Rat) ≤ 1 ∧ (1 : Rat) ≤ 1) ∧ ((0 : Rat) ≤ 31/16 ∧ (1 : Rat) ≤ 31/16) ∧ (16 : Nat) ≤ 16 := by norm_num

theorem witness_ConvexBlendNeverClamps : inUnit ⟨1, 0, 1/2⟩ ∧ inUnit ⟨0, 1, 1/4⟩ ∧ (0 : Rat) ≤ 16/31 ∧ (16/31 : Rat) ≤ 1 := by
  unfold inUnit; norm_num

/-- Latches as the resolver leaves them. -/
def resolved (cf : CfgRec) : Latches := { substituted cf with cc := some ⟨0, 1/3, 1⟩ }

theorem witness_MbNoneCopies : plain.masterBrightnessMode = .none ∧ (stage (resolved plain)).cur = some (inv (resolved plain))
    ∧ (resolved plain).cc = some ⟨0, 1/3, 1⟩ := ⟨rfl, rfl, rfl⟩
theorem witness_MbUpBrightens : (cfg 40 .up .none 0 0 0 0).masterBrightnessMode = .up
    ∧ (stage (resolved (cfg 40 .up .none 0 0 0 0))).cur = some (inv (resolved (cfg 40 .up .none 0 0 0 0)))
    ∧ (resolved (cfg 40 .up .none 0 0 0 0)).cc = some ⟨0, 1/3, 1⟩
    ∧ (resolved (cfg 40 .up .none 0 0 0 0)).cf = some (cfg 40 .up .none 0 0 0 0) := ⟨rfl, rfl, rfl, rfl⟩
theorem witness_MbDownDarkens : (cfg 0 .down .none 0 0 0 0).masterBrightnessMode = .down
    ∧ (stage (resolved (cfg 0 .down .none 0 0 0 0))).cur = some (inv (resolved (cfg 0 .down .none 0 0 0 0)))
    ∧ (resolved (cfg 0 .down .none 0 0 0 0)).cc = some ⟨0, 1/3, 1⟩
    ∧ (resolved (cfg 0 .down .none 0 0 0 0)).cf = some (cfg 0 .down .none 0 0 0 0) := ⟨rfl, rfl, rfl, rfl⟩

theorem witness_AlphaBlendThenMasterUpComposes : inTwo.is3dSourced = false ∧ inTwo.alphaBlendEnabled = false
    ∧ (cfg 16 .up .alphaBlend 1 1 8 8).effectSelect = .alphaBlend
    ∧ meets inTwo.targetMask (cfg 16 .up .alphaBlend 1 1 8 8).target1Mask
    ∧ meets inTwo.targetMask (cfg 16 .up .alphaBlend 1 1 8 8).target2Mask
    ∧ (cfg 16 .up .alphaBlend 1 1 8 8).masterBrightnessMode = .up ∧ (cfg 16 .up .alphaBlend 1 1 8 8).masterBrightnessFactor ≤ 16 :=
  ⟨rfl, rfl, rfl, meets_1_1, meets_1_1, rfl, Nat.le_refl 16⟩

/-- No invocation, a latch missing, all latches held. -/
theorem witness_StageOperationsRunWhenOperandsHeld : (latchWritten .resB3d).isSome ∧ State.reset.cur = none
    ∧ (latchReads .resB3d).find? (fun n => !(slots plain).holds n) = none
    ∧ (latchReads .resB3d).find? (fun n => !words.holds n) = some .st := by decide

theorem witness_StageOperationsChangeOneLatch : ∃ t, latchWritten .mbUp = some .oc
    ∧ exec .mbUp (stage (resolved (cfg 8 .up .none 0 0 0 0))) = .next t := ⟨_, rfl, rfl⟩

/-! ## Witnesses: the pixel function -/

theorem witness_FactorAbove16ActsAs16 : 16 ≤ (cfg 16 .up .none 0 0 0 0).masterBrightnessFactor
    ∧ 16 ≤ (cfg 40 .up .none 0 0 0 0).masterBrightnessFactor := by decide

/-- V27 against V30; a top coefficient that differs under RES.FXNONE; two words with bit 23 clear. -/
theorem witness_IgnoredBitsDoNotMatter :
    ((0x08020FC0 : Word32) &&& 0xFC83FFFF = 0x0B660FC0 &&& 0xFC83FFFF ∧ (0x0041E50A : Word32) &&& 0x007FFFFF = 0xFFC1E50A &&& 0x007FFFFF
      ∧ (0x0712003F : Word32) &&& 0xFFBFFFFF = 0x0752003F &&& 0xFFBFFFFF)
    ∧ ((0x0712003F : Word32) &&& 0xFF83FFFF = 0x073E003F &&& 0xFF83FFFF
      ∧ decode .reskey (resKey (decodeLayer defaultLayout 0x0712003F) (decodeLayer defaultLayout 0x08020FC0) plain) ≠ .ok .resBpp)
    ∧ (0x0712003F : Word32).getLsbD 23 = false ∧ (0x08020FC0 : Word32).getLsbD 23 = false := by decide

/-- The other layout: bottoms that differ in `k`, `p` and `a`, tops in the ignored bit 24 and, RES.BPP not selected, in `k`. -/
theorem witness_IgnoredBitsDoNotMatter_layout :
    (∀ b, b < 18 ∨ b = reversed.d ∨ reversed.m ≤ b ∧ b < reversed.m + 6 →
        (0x00040FC0 : Word32).getLsbD b = (0x96040FC0 : Word32).getLsbD b)
    ∧ (∀ b, b < 23 → (0x0041E50A : Word32).getLsbD b = (0xFFC1E50A : Word32).getLsbD b)
    ∧ (∀ b, b < 18 ∨ b = reversed.d ∨ b = reversed.a ∨ b = reversed.p ∨ reversed.m ≤ b ∧ b < reversed.m + 6 →
        (0x0004003F : Word32).getLsbD b = (0x5104003F : Word32).getLsbD b)
    ∧ decode .reskey (resKey (decodeLayer reversed 0x0004003F) (decodeLayer reversed 0x00040FC0) plain) ≠ .ok .resBpp
    ∧ (0x0004003F : Word32).getLsbD reversed.d = false ∧ (0x00040FC0 : Word32).getLsbD reversed.d = false := by
  refine ⟨fun b hb => ?_, fun b hb => ?_, fun b hb => ?_, by decide, by decide, by decide⟩
  · simp only [reversed] at hb
    have hlt : b < 28 := by omega
    have h : ∀ c : Fin 28, (c.val < 18 ∨ c.val = 27 ∨ 18 ≤ c.val ∧ c.val < 24) →
        (0x00040FC0 : Word32).getLsbD c.val = (0x96040FC0 : Word32).getLsbD c.val := by decide
    exact h ⟨b, hlt⟩ hb
  · have h : ∀ c : Fin 23, (0x0041E50A : Word32).getLsbD c.val = (0xFFC1E50A : Word32).getLsbD c.val := by decide
    exact h ⟨b, hb⟩
  · simp only [reversed] at hb
    have hlt : b < 28 := by omega
    have h : ∀ c : Fin 28, (c.val < 18 ∨ c.val = 27 ∨ c.val = 26 ∨ c.val = 25 ∨ 18 ≤ c.val ∧ c.val < 24) →
        (0x0004003F : Word32).getLsbD c.val = (0x5104003F : Word32).getLsbD c.val := by decide
    exact h ⟨b, hlt⟩ hb

theorem witness_LayoutIsAnArgument : step State.reset = .next State.reset ∧ defaultLayout.Wf ∧ reversed.Wf := ⟨rfl, by decide⟩

/-! ## Witnesses: PIXEL -/

/-- What PIXEL fetches at `p2Pos`. -/
def p2Fetch : Fetched := ⟨0x00015555, 0, 0x007C0FC0, cfg 8 .down .none 0 0 0 0⟩

theorem witness_PixelStoresPixelFunction : p2.phase = .run ∧ readBuf p2.started (posIndex p2Pos) = none
    ∧ inputsAt p2.mem p2Pos p2Fetch := by decide

/-- Nothing is written: no position has its inputs. -/
theorem noInput_reset (p : Pos) : ¬ ∃ f, inputsAt Memory.reset p f := by
  rintro ⟨f, h, -⟩
  cases h

theorem witness_MissingInputFaults : (stage words).phase = .run ∧ readBuf (stage words).started (posIndex p2Pos) = none
    ∧ ¬ ∃ f, inputsAt (stage words).mem p2Pos f := ⟨rfl, by decide, noInput_reset p2Pos⟩

theorem witness_NotEnabledIsRefused : State.reset.phase ≠ .run ∧ begun (stage words) firstPos
    ∧ (Instr.pixel 2 0 0).wellFormed = false ∧ (Instr.pixel 0 192 0).wellFormed = false
    ∧ (Instr.pixel 0 0 256).wellFormed = false ∧ (Instr.frame 2).wellFormed = false :=
  ⟨by decide, show readBuf [(0, ())] 0 = some () from rfl, test_wellFormed_screen.1, test_wellFormed_row.1,
    test_wellFormed_col.1, test_wellFormed_screen3d.1⟩

theorem witness_SplitInvocationEqualsPixel : ∃ t, p2.moves = [] ∧ p2.cur = none
    ∧ exec (.pixel p2Pos.screen.val p2Pos.row.val p2Pos.col.val) p2 = .next t := ⟨_, rfl, rfl, rfl⟩

theorem witness_OffScreen3dRefused : ({ p2 with phase := .idle } : State).phase = .idle ∧ (⟨1, 5, 7⟩ : Pos).screen ≠ 0
    ∧ (0x00800000 : Word32).getLsbD State.reset.layout.d = true
    ∧ readBuf (writeTop ⟨1, 5, 7⟩ 0x00800000 Memory.reset).top (posIndex ⟨1, 5, 7⟩) = some 0x00800000
    ∧ readBuf (writeBot ⟨1, 191, 255⟩ 0x00800000 Memory.reset).bot (posIndex ⟨1, 191, 255⟩) = some 0x00800000 := by decide

/-- The five clauses: a current invocation, a waiting one, an `advance`, a whole pixel, a whole frame. -/
theorem witness_StepRunsSelectedOperation :
    ((stage words).phase = .run ∧ (stage words).moves = [] ∧ (stage words).cur = some (inv words)
        ∧ nextLine words = .operation .layerT 0x87943081 ∧ decode .layerT 0x87943081 = .ok .decLt)
      ∧ (({ p2 with waiting := [inv words] } : State).cur = none ∧ ({ p2 with waiting := [inv words] } : State).phase = .run
        ∧ ({ p2 with waiting := [inv words] } : State).moves = []
        ∧ ({ p2 with waiting := [inv words] } : State).waiting = inv words :: [])
      ∧ (∃ u, selectAt firstPos { stage words with moves := [] } = some u ∧ u.cur = some (inv words))
      ∧ ({ p2 with moves := [.runPixel p2Pos] } : State).moves = .runPixel p2Pos :: []
      ∧ ({ p2 with moves := [.compositeFrame 1] } : State).moves = .compositeFrame 1 :: [] :=
  ⟨⟨rfl, rfl, rfl, rfl, by decide⟩, ⟨rfl, rfl, rfl, rfl⟩, ⟨_, rfl, rfl⟩, rfl, rfl⟩

/-! ## Witnesses: whole frames. A buffer whose first `n` elements hold `v`. -/

@[irreducible] def fill {α : Type} (n : Nat) (v : α) : Buf α := (List.range n).map fun i => (i, v)

theorem readBuf_append {α : Type} (b c : Buf α) (i : Nat) :
    readBuf (b ++ c) i = match readBuf b i with
      | some v => some v
      | none => readBuf c i := by
  induction b with
  | nil => rfl
  | cons e rest ih =>
    obtain ⟨j, u⟩ := e
    rw [List.cons_append, readBuf_cons, readBuf_cons]
    split
    · rfl
    · exact ih

theorem readBuf_nilFill {α : Type} (v : α) (i : Nat) : readBuf (fill 0 v) i = none := by simp [fill]

theorem readBuf_fill {α : Type} (n : Nat) (v : α) (i : Nat) : readBuf (fill n v) i = if i < n then some v else none := by
  induction n with
  | zero => rw [readBuf_nilFill, if_neg (Nat.not_lt_zero i)]
  | succ n ih =>
    have h : fill (n + 1) v = fill n v ++ [(n, v)] := by simp [fill, List.range_succ]
    rw [h, readBuf_append, ih, readBuf_cons, readBuf_nil]
    by_cases h1 : i < n
    · rw [if_pos h1, if_pos (Nat.lt_succ_of_lt h1)]
    · rw [if_neg h1]
      by_cases h2 : i = n
      · rw [if_pos (by omega : i < n + 1)]
        exact if_pos h2
      · rw [if_neg (by omega : ¬ i < n + 1)]
        exact if_neg h2

theorem fill_wf {α : Type} {n m : Nat} (v : α) (h : n ≤ m) : bufWf m (fill n v) := by
  unfold fill
  constructor
  · exact List.Pairwise.map _ (fun _ _ hab => hab) List.pairwise_lt_range
  · intro e he
    obtain ⟨i, hi, rfl⟩ := List.mem_map.mp he
    exact Nat.lt_of_lt_of_le (List.mem_range.mp hi) h

theorem length_fill {α : Type} (n : Nat) (v : α) : (fill n v).length = n := by simp [fill]

/-- Every input element written: zero words and `CFG{}`; the first `n` elements of `OUT` as PIXEL leaves them. -/
def inputs (n : Nat) : Memory :=
  { top := fill 98304 0, bot := fill 98304 0, g3d := fill 49152 0, cfg := fill 384 plain, out := fill n (pixel defaultLayout 0 0 0 plain) }

theorem inputs_at (n : Nat) (p : Pos) : inputsAt (inputs n) p ⟨0, 0, 0, plain⟩ := by
  have := p.screen.isLt; have := p.row.isLt; have := p.col.isLt
  refine ⟨?_, ?_, ?_, ?_⟩ <;> simp only [inputs, readBuf_fill] <;> rw [if_pos (by omega)]

theorem inputs_complete (n : Nat) : inputsComplete (inputs n) := fun p => ⟨_, inputs_at n p⟩

theorem inputs_wf {n : Nat} (h : n ≤ 98304) : (inputs n).wf :=
  ⟨fill_wf _ (Nat.le_refl _), fill_wf _ (Nat.le_refl _), fill_wf _ (Nat.le_refl _), fill_wf _ (Nat.le_refl _), fill_wf _ h⟩

theorem inputs_noSlot (L : Config.LayerLayout) (n : Nat) (t : Screen) : noSlotOff L t (inputs n) := by
  intro p w _ h
  simp only [inputs, readBuf_fill] at h
  have hw : w = 0 := by
    rcases h with h | h <;> split at h <;> cases h <;> rfl
  subst hw
  exact BitVec.getLsbD_zero

theorem inputs_no3d (L : Config.LayerLayout) (n : Nat) (t : Screen) : no3dOffScreen L t (inputs n) := by
  have h : flaggedOffScreen L t (fill 98304 0) = false := by
    unfold flaggedOffScreen fill
    rw [List.any_eq_false]
    intro e he
    obtain ⟨i, -, rfl⟩ := List.mem_map.mp he
    have h0 : (decodeLayer L 0).is3dSourced = false := BitVec.getLsbD_zero
    show ¬ ((decide (indexScreen i ≠ t.val) && (decodeLayer L 0).is3dSourced) = true)
    rw [h0, Bool.and_false]
    exact Bool.false_ne_true
  exact ⟨h, h⟩

/-- Idle, every input written. -/
def ready : State := { State.reset with mem := inputs 0 }

/-- A frame in progress whose first `n` positions have run. -/
def partway (n : Nat) : State := { State.reset with phase := .run, screen3d := some 0, mem := inputs n, started := fill n () }

/-- A frame that is Done. -/
def finished : State := { State.reset with phase := .done, screen3d := some 0, mem := inputs 98304, started := fill 98304 () }

theorem out_at {n : Nat} {p : Pos} (h : posIndex p < n) : outAt (inputs n) p = some (pixel defaultLayout 0 0 0 plain) := by
  have e : (192 * p.screen.val + p.row.val) * 256 + p.col.val = posIndex p := outIndex_eq p
  rw [outAt, e, inputs, readBuf_fill, if_pos h]

theorem partway_inv {n : Nat} (h : n < 98304) : FrameInv (partway n) := by
  refine ⟨inputs_wf h.le, fill_wf _ h.le, fun hp => absurd rfl hp, by simp [inFlight, partway], by simp [inFlight, partway], ?_,
    fun hp => by simp [partway] at hp, ?_, fun _ => ⟨0, rfl, inputs_no3d _ n 0⟩, fun hp => by simp [partway] at hp⟩
  · intro _ p hp _
    have hp' : (if posIndex p < n then some () else none) = some () := by rw [← readBuf_fill]; exact hp
    refine ⟨_, inputs_at n p, out_at ?_⟩
    by_contra hn
    rw [if_neg hn] at hp'
    cases hp'
  · rintro - ⟨hl, -⟩
    have hl' : (fill n ()).length = 98304 := hl
    rw [length_fill] at hl'
    omega

theorem finished_begun (p : Pos) : begun finished p := by
  have h : posIndex p < 98304 := posIndex_lt p
  simp only [begun, finished, readBuf_fill, if_pos h]

theorem finished_inv : FrameInv finished := by
  refine ⟨inputs_wf (Nat.le_refl _), fill_wf _ (Nat.le_refl _), fun _ => ⟨rfl, rfl⟩, by simp [inFlight, finished],
    by simp [inFlight, finished], fun _ p _ _ => ⟨_, inputs_at _ p, out_at (posIndex_lt p)⟩, fun _ p => finished_begun p,
    fun hp => by simp [finished] at hp, fun _ => ⟨0, rfl, inputs_no3d _ _ 0⟩, fun hp => by simp [finished] at hp⟩

theorem witness_FrameCompositesEveryPixel : ready.phase = .idle ∧ ready.mem.wf ∧ noSlotOff ready.layout 1 ready.mem ∧ inputsComplete ready.mem
    ∧ inputsAt ready.mem ⟨1, 191, 255⟩ ⟨0, 0, 0, plain⟩ :=
  ⟨rfl, inputs_wf (Nat.zero_le _), inputs_noSlot _ 0 1, inputs_complete 0, inputs_at 0 _⟩

/-- FRAME completes from `ready`. -/
theorem ready_frame (t : Screen) : ∃ u, exec (.frame t.val) ready = .next u ∧ u.phase ≠ .idle := by
  obtain ⟨v, hv, hp⟩ := pixelsFrom_completes Config.pixels 0
    { ready with phase := .run, screen3d := some t, started := [], cur := none, waiting := [] } (by simp) (fun _ => rfl) (fun h => by cases h) rfl
    (fun _ _ => rfl) (inputs_complete 0)
  refine ⟨v, ?_, hp⟩
  have hs : frameStart t ready = .next { ready with phase := .run, screen3d := some t, started := [], cur := none, waiting := [] } :=
    frameStart_next.mpr ⟨rfl, inputs_no3d _ 0 t, rfl⟩
  have ht : screenOf t.val = some t := by simp [screenOf, t.isLt]
  simp only [exec, execFrame, ht, hs, hv]

/-- PIXEL and FRAME both complete somewhere. -/
theorem witness_PixelAndFrameChangeOnlyOutput : (∃ t, exec (.pixel 1 0 2) p2 = .next t) ∧ ∃ t, exec (.frame 1) ready = .next t :=
  ⟨⟨_, rfl⟩, (ready_frame 1).imp fun _ h => h.1⟩

theorem witness_FrameEqualsItsSteps : ready.moves = [] ∧ ∃ t, exec (.frame (1 : Screen).val) ready = .next t :=
  ⟨rfl, (ready_frame 1).imp fun _ h => h.1⟩

/-- From the start, and one position short of the end. -/
theorem witness_FrameEndsAfterItsPixels :
    (FrameInv (partway 0) ∧ (partway 0).phase = .run ∧ (partway 0).moves = [] ∧ inFlight (partway 0) = []
        ∧ inputsComplete (partway 0).mem)
      ∧ FrameInv (partway 98303) ∧ (partway 98303).phase = .run ∧ (partway 98303).moves = [] ∧ inFlight (partway 98303) = []
        ∧ inputsComplete (partway 98303).mem :=
  ⟨⟨partway_inv (by omega), rfl, rfl, rfl, inputs_complete _⟩, partway_inv (by omega), rfl, rfl, rfl, inputs_complete _⟩

/-- The last two positions of a frame. -/
def lastPos : Pos := ⟨1, 191, 255⟩
def lastButOne : Pos := ⟨1, 191, 254⟩

theorem partway_free {n : Nat} {p : Pos} (h : n ≤ posIndex p) : readBuf (fill n ()) (posIndex p) = none := by
  rw [readBuf_fill, if_neg (by omega)]

/-- Two positions short of the end the two left run, in either order, and the frame is Done. -/
theorem run_two {s : State} {a b : Pos} {ms : List Move} (hs : step s = pixelAt a { partway 98302 with moves := ms })
    (hu : ∀ v : State, v.phase = .run → v.started = writeBuf (fill 98302 ()) (posIndex a) () → v.moves = ms → v.cur = none →
      v.waiting = [] → ∃ ms', step v = pixelAt b { v with moves := ms' })
    (ha : 98302 ≤ posIndex a) (hb : 98302 ≤ posIndex b) (hab : posIndex b ≠ posIndex a) :
    ∃ t : State, Sys2Proof.core.run 2 s = .next t ∧ t.phase = .done := by
  obtain ⟨v, hv, hvs, hsame, hc, hw, hm, hp⟩ :=
    pixelAt_completes (s := { partway 98302 with moves := ms }) rfl (partway_free ha) (inputs_at 98302 a)
  have hlen : (fill 98302 ()).length = 98302 := length_fill _ _
  have hvr : v.phase = .run := by
    rw [hp, if_neg]
    rintro ⟨h, -⟩
    have h' : (fill 98302 ()).length + 1 = 98304 := h
    omega
  have hvs' : v.started = writeBuf (fill 98302 ()) (posIndex a) () := hvs
  obtain ⟨ms', hstep⟩ := hu v hvr hvs' hm hc hw
  obtain ⟨f, hf⟩ := inputsComplete_of_same hsame (inputs_complete 98302) b
  obtain ⟨t, ht, -, -, -, -, -, htp⟩ :=
    pixelAt_completes (s := { v with moves := ms' }) hvr
      (by show readBuf v.started (posIndex b) = none
          rw [hvs', readBuf_writeBuf_other _ _ hab]; exact partway_free hb) hf
  refine ⟨t, ?_, ?_⟩
  · have h1 : Sys2Proof.core.step s = .next v := hs.trans hv
    have h2 : Sys2Proof.core.step v = .next t := hstep.trans ht
    simp only [Host.Core.run, h1, h2]
  · rw [htp, if_pos]
    refine ⟨?_, hc, hw⟩
    show v.started.length + 1 = 98304
    rw [hvs', length_writeBuf_free () (partway_free ha), hlen]

theorem lowest_partway {p : Pos} {n : Nat} (h : posIndex p = n) : lowestFree 0 (fill n ()) = posIndex p := by
  refine lowestFree_eq (fill_wf () (Nat.le_refl n)).1 (partway_free (by omega)) fun k hk => ?_
  rw [readBuf_fill, if_pos (by omega)]

/-- The machine's own order: upward. -/
theorem runs_up : ∃ t : State, Sys2Proof.core.run 2 (partway 98302) = .next t ∧ t.phase = .done := by
  refine run_two (a := lastButOne) (b := lastPos) (ms := []) ?_ ?_ (by decide) (by decide) (by decide)
  · exact step_ownPixel rfl rfl rfl rfl (lowest_partway (by decide))
  · intro v h1 h2 h3 h4 h5
    refine ⟨[], ?_⟩
    have hl : lowestFree 0 v.started = posIndex lastPos := by
      have e1 : posIndex lastPos = 98303 := by decide
      have e2 : posIndex lastButOne = 98302 := by decide
      rw [h2]
      refine lowestFree_eq (writeBuf_wf () (fill_wf () (by omega : 98302 ≤ 98304)) (by omega)).1 ?_ fun k hk => ?_
      · rw [readBuf_writeBuf_other _ _ (by omega)]
        exact partway_free (by omega)
      · rw [readBuf_writeBuf, readBuf_fill]
        by_cases hk' : k = posIndex lastButOne
        · rw [if_pos hk']
        · rw [if_neg hk', if_pos (by omega)]
    have hv : v = { v with moves := [] } := by rw [← h3]
    rw [← hv]
    exact step_ownPixel h1 h3 h4 h5 hl

/-- The two left, downward, by the scheduler's choice. -/
def downward : State := { partway 98302 with moves := [.runPixel lastPos, .runPixel lastButOne] }

theorem runs_down : ∃ t : State, Sys2Proof.core.run 2 downward = .next t ∧ t.phase = .done := by
  refine run_two (a := lastPos) (b := lastButOne) (ms := [.runPixel lastButOne]) ?_ ?_ (by decide) (by decide)
    (by decide)
  · exact step_runPixel rfl
  · intro v _ _ h3 _ _
    exact ⟨[], step_runPixel h3⟩

theorem downward_inv : FrameInv downward := by
  have h := partway_inv (n := 98302) (by omega)
  exact ⟨h.1, h.2, h.3, h.4, h.5, h.6, h.7, h.8, h.9, h.10⟩

/-- One frame, two orders. -/
theorem witness_AnyScheduleSameOutput : ∃ t t' : State, FrameInv (partway 98302) ∧ FrameInv downward
    ∧ (partway 98302).phase ≠ .idle ∧ downward.phase ≠ .idle ∧ (partway 98302).layout = downward.layout ∧ sameInputs (partway 98302).mem downward.mem
    ∧ (∀ m ∈ (partway 98302).moves, m.isAck = false) ∧ (∀ m ∈ downward.moves, m.isAck = false)
    ∧ Sys2Proof.core.run 2 (partway 98302) = .next t ∧ Sys2Proof.core.run 2 downward = .next t' ∧ t.phase = .done ∧ t'.phase = .done := by
  obtain ⟨t, h1, h2⟩ := runs_up
  obtain ⟨t', h3, h4⟩ := runs_down
  exact ⟨t, t', partway_inv (by omega), downward_inv, by decide, by decide, rfl, ⟨rfl, rfl, rfl, rfl⟩, by decide, by decide, h1, h3, h2, h4⟩

theorem witness_DoneOutputIsPixelFunction : ∃ t : State, FrameInv downward ∧ Sys2Proof.core.run 2 downward = .next t
    ∧ t.phase = .done := by
  obtain ⟨t, h1, h2⟩ := runs_down
  exact ⟨t, downward_inv, h1, h2⟩

/-- A step of a frame in progress: it runs PIXEL at `p`. -/
theorem partway_step {n : Nat} {p : Pos} (h : posIndex p = n) :
    ∃ t : State, step (partway n) = .next t
      ∧ t.phase = if (fill n ()).length + 1 = Config.pixels ∧ (partway n).cur = none ∧ (partway n).waiting = [] then .done
                  else .run := by
  obtain ⟨t, ht, -, -, -, -, -, hp⟩ :=
    pixelAt_completes (s := partway n) (p := p) rfl (partway_free (by omega)) (inputs_at n p)
  exact ⟨t, (step_ownPixel rfl rfl rfl rfl (lowest_partway h)).trans ht, hp⟩

theorem witness_StepKeepsFrameInv : ∃ t, FrameInv (partway 98303) ∧ step (partway 98303) = .next t := by
  obtain ⟨t, ht, -⟩ := partway_step (p := lastPos) (n := 98303) (by decide)
  exact ⟨t, partway_inv (by omega), ht⟩

theorem witness_StepKeepsMemoryCanonical : ∃ t, (partway 0).mem.wf ∧ step (partway 0) = .next t := by
  obtain ⟨t, ht, -⟩ := partway_step (p := firstPos) (n := 0) (by decide)
  exact ⟨t, inputs_wf (Nat.zero_le _), ht⟩

/-- The four ways the phase changes. -/
theorem witness_PhaseChangesOnlyByHandshake :
    (∃ t, step { State.reset with moves := [.frameStart 0] } = .next t ∧ t.phase ≠ State.reset.phase)
      ∧ (∃ t, step (partway 98303) = .next t ∧ t.phase ≠ (partway 98303).phase)
      ∧ (∃ t, step { finished with moves := [.frameAck] } = .next t ∧ t.phase ≠ finished.phase)
      ∧ ∃ t, step { ready with moves := [.compositeFrame 1] } = .next t ∧ t.phase ≠ ready.phase := by
  refine ⟨⟨_, rfl, by decide⟩, ?_, ⟨_, rfl, by decide⟩, ready_frame 1⟩
  · obtain ⟨t, ht, hp⟩ := partway_step (p := lastPos) (n := 98303) (by decide)
    refine ⟨t, ht, ?_⟩
    rw [hp, if_pos ⟨by rw [length_fill]; rfl, rfl, rfl⟩]
    decide

theorem witness_BuffersFrozenOutsideTheirPhase :
    (∃ t, step (partway 0) = .next t ∧ (partway 0).phase ≠ .idle)
      ∧ ∃ t, FrameInv finished ∧ step finished = .next t ∧ finished.phase = .done := by
  obtain ⟨t, ht, -⟩ := partway_step (p := firstPos) (n := 0) (by decide)
  exact ⟨⟨t, ht, by decide⟩, ⟨_, finished_inv, rfl, rfl⟩⟩

/-- Run, not Idle, not Done; a code that is not 3, and 3. -/
theorem witness_BrokenDutiesRefused : (partway 0).phase = .run ∧ finished.phase ≠ .idle ∧ (partway 0).phase ≠ .idle
    ∧ (partway 0).phase ≠ .done ∧ State.reset.phase ≠ .done
    ∧ (⟨0, 2, 0, 0, 0, 0, 0⟩ : CfgCodes).masterBrightnessMode ≠ 3
    ∧ (⟨0, 3, 0, 0, 0, 0, 0⟩ : CfgCodes).masterBrightnessMode = 3 :=
  ⟨rfl, by decide, by decide, by decide, by decide, by decide, rfl⟩

theorem witness_HostWritesLand : ready.phase = .idle ∧ inputsAt ready.mem ⟨1, 191, 255⟩ ⟨0, 0, 0, plain⟩ := ⟨rfl, inputs_at 0 _⟩

theorem witness_HandshakeMoves : (ready.phase = .idle ∧ ready.mem.wf ∧ noSlotOff ready.layout 1 ready.mem)
    ∧ finished.phase = .done ∧ readBuf finished.mem.out ((383 : Fin 384).val * 256 + (255 : Col).val) = some (pixel defaultLayout 0 0 0 plain) := by
  refine ⟨⟨rfl, inputs_wf (Nat.zero_le _), inputs_noSlot _ 0 1⟩, rfl, ?_⟩
  show readBuf (fill 98304 (pixel defaultLayout 0 0 0 plain)) 98303 = _
  rw [readBuf_fill, if_pos (by omega)]

end Sys2Proof.Tests
end

/-! PROOFS. The scope of the model: what a stage operation needs to run (R14, R22, R162), the decodes of a layer word (R82, R83), and
the layout as an argument (R7, R61). -/

namespace Sys2Proof

/-! ## Fields packed into a word -/

/-- A field of a packed word: where it lies, how wide it is, what it holds. -/
structure BitField where
  pos : Nat
  width : Nat
  value : BitVec width

/-- The bits of the word that the field takes up. -/
def BitField.bits (f : BitField) : List Nat := List.range' f.pos f.width

/-- The word that holds the field and nothing else. -/
def BitField.word (f : BitField) : Word32 := f.value.setWidth 32 <<< f.pos

/-- The word that holds all of the fields. -/
def packed (fs : List BitField) : Word32 := fs.foldr (fun f w => f.word ||| w) 0

@[simp] theorem packed_cons (f : BitField) (fs : List BitField) : packed (f :: fs) = f.word ||| packed fs := rfl

theorem getLsbD_word_add {f : BitField} {i : Nat} (h : f.pos + i < 32) : f.word.getLsbD (f.pos + i) = f.value.getLsbD i := by
  simp [BitField.word, h]

/-- A field leaves the bits that are not its own clear. -/
theorem getLsbD_word_of_notMem {f : BitField} {b : Nat} (h : b ∉ f.bits) : f.word.getLsbD b = false := by
  rw [BitField.bits, List.mem_range'_1] at h
  by_cases hbelow : b < f.pos
  · simp [BitField.word, hbelow]
  · have habove : f.width ≤ b - f.pos := by omega
    simp [BitField.word, BitVec.getLsbD_of_ge _ _ habove]

theorem getLsbD_packed_of_notMem {fs : List BitField} {b : Nat} (h : b ∉ fs.flatMap BitField.bits) :
    (packed fs).getLsbD b = false := by
  induction fs with
  | nil => simp [packed]
  | cons f fs ih =>
    rw [List.flatMap_cons, List.mem_append, not_or] at h
    rw [packed_cons, BitVec.getLsbD_or, getLsbD_word_of_notMem h.1, ih h.2, Bool.or_false]

/-- Where the fields share no bit, a bit of a field is that field's alone. -/
theorem getLsbD_packed_of_mem {fs : List BitField} {f : BitField} {b : Nat} (hfs : (fs.flatMap BitField.bits).Nodup) (hf : f ∈ fs)
    (hb : b ∈ f.bits) : (packed fs).getLsbD b = f.word.getLsbD b := by
  induction fs with
  | nil => cases hf
  | cons g gs ih =>
    rw [List.flatMap_cons, List.nodup_append'] at hfs
    obtain ⟨-, hgs, hdisj⟩ := hfs
    rw [packed_cons, BitVec.getLsbD_or]
    rcases List.mem_cons.mp hf with rfl | hf
    · rw [getLsbD_packed_of_notMem (hdisj hb), Bool.or_false]
    · have hbs : b ∈ gs.flatMap BitField.bits := List.mem_flatMap.mpr ⟨f, hf, hb⟩
      rw [getLsbD_word_of_notMem fun hg => hdisj hg hbs, ih hgs hf, Bool.false_or]

/-- Where the fields share no bit, each is read back. -/
theorem extractLsb'_packed {fs : List BitField} {f : BitField} (hfs : (fs.flatMap BitField.bits).Nodup)
    (h32 : ∀ b ∈ fs.flatMap BitField.bits, b < 32) (hf : f ∈ fs) : (packed fs).extractLsb' f.pos f.width = f.value := by
  apply BitVec.eq_of_getLsbD_eq
  intro i hi
  have hb : f.pos + i ∈ f.bits := List.mem_range'_1.mpr ⟨by omega, by omega⟩
  rw [BitVec.getLsbD_extractLsb', getLsbD_packed_of_mem hfs hf hb,
    getLsbD_word_add (h32 _ (List.mem_flatMap.mpr ⟨f, hf, hb⟩)), decide_eq_true hi, Bool.true_and]

/-! ## The layer word -/

/-- A flag read as a field of one bit. -/
theorem getLsbD_eq_extractLsb' {n : Nat} (w : BitVec n) (b : Nat) : w.getLsbD b = decide (w.extractLsb' b 1 = 1) := by
  have h : (w.extractLsb' b 1).getLsbD 0 = w.getLsbD b := by simp
  rw [← h]
  generalize w.extractLsb' b 1 = v
  revert v
  decide

/-- The decoded layer word, every flag a field of one bit (R61, R82). -/
theorem decodeLayer_eq_fields (L : Config.LayerLayout) (w : Word32) :
    decodeLayer L w =
      { color := ⟨w.extractLsb' 0 6, w.extractLsb' 6 6, w.extractLsb' 12 6⟩
        perPixelCoefficient := w.extractLsb' L.k 4
        is3dSourced := decide (w.extractLsb' L.d 1 = 1)
        alphaBlendEnabled := decide (w.extractLsb' L.a 1 = 1)
        usesPerPixelCoefficient := decide (w.extractLsb' L.p 1 = 1)
        targetMask := w.extractLsb' L.m 6 } := by
  simp only [decodeLayer, decodeColor, getLsbD_eq_extractLsb']

/-- The fields of a layer pixel, as a layout places them (R61, R86). -/
def layerFields (L : Config.LayerLayout) (px : LayerPixel) : List BitField :=
  [⟨0, 6, px.color.r⟩, ⟨6, 6, px.color.g⟩, ⟨12, 6, px.color.b⟩, ⟨L.k, 4, px.perPixelCoefficient⟩,
    ⟨L.d, 1, .ofBool px.is3dSourced⟩, ⟨L.a, 1, .ofBool px.alphaBlendEnabled⟩, ⟨L.p, 1, .ofBool px.usesPerPixelCoefficient⟩,
    ⟨L.m, 6, px.targetMask⟩]

theorem encodeLayer_eq_packed (L : Config.LayerLayout) (px : LayerPixel) : encodeLayer L px = packed (layerFields L px) := by
  simp [encodeLayer, encodeColor, flagBit, layerFields, packed, BitField.word, BitVec.or_assoc]

/-- The bits of the fields are the colour's and the layout's own. -/
theorem bits_layerFields (L : Config.LayerLayout) (px : LayerPixel) :
    (layerFields L px).flatMap BitField.bits = List.range 18 ++ L.bits := rfl

theorem nodup_bits_layerFields {L : Config.LayerLayout} (hL : L.Wf) (px : LayerPixel) :
    ((layerFields L px).flatMap BitField.bits).Nodup := by
  obtain ⟨hnodup, hbound⟩ := hL
  rw [bits_layerFields, List.nodup_append']
  refine ⟨List.nodup_range, hnodup, fun b hcolor hb => ?_⟩
  have := List.mem_range.mp hcolor
  have := (hbound b hb).1
  omega

theorem bits_layerFields_lt {L : Config.LayerLayout} (hL : L.Wf) (px : LayerPixel) :
    ∀ b ∈ (layerFields L px).flatMap BitField.bits, b < 32 := by
  intro b hb
  rw [bits_layerFields, List.mem_append, List.mem_range] at hb
  rcases hb with hb | hb
  · omega
  · exact (hL.2 b hb).2

/-- A field of a layer pixel is read back from the word that packs the pixel. -/
theorem extractLsb'_encodeLayer {L : Config.LayerLayout} (hL : L.Wf) {px : LayerPixel} (f : BitField) (hf : f ∈ layerFields L px) :
    (encodeLayer L px).extractLsb' f.pos f.width = f.value := by
  rw [encodeLayer_eq_packed]
  exact extractLsb'_packed (nodup_bits_layerFields hL px) (bits_layerFields_lt hL px) hf

theorem decide_ofBool_eq_one (b : Bool) : decide (BitVec.ofBool b = 1) = b := by cases b <;> rfl

/-- A layer pixel survives packing and unpacking under every layout that gives each field bits of its own (R86, D4). -/
theorem decodeLayer_encodeLayer {L : Config.LayerLayout} (hL : L.Wf) (px : LayerPixel) :
    decodeLayer L (encodeLayer L px) = px := by
  have hfields := extractLsb'_encodeLayer hL (px := px)
  simp only [layerFields, List.forall_mem_cons] at hfields
  obtain ⟨hr, hg, hb, hk, hd, ha, hp, hm, -⟩ := hfields
  rw [decodeLayer_eq_fields, hr, hg, hb, hk, hd, ha, hp, hm]
  simp only [decide_ofBool_eq_one]

/-- The rows of the decoder have no fixed bits: each takes every word of its format (R82 to R84). -/
theorem decode_of_mem_decRows {row : TableRow} (hrow : row ∈ decRows) (w : Word32) : decode row.format w = .ok row.instr := by
  have hw : w.toNat < 4294967296 := w.isLt
  simp only [decRows, List.mem_cons, List.not_mem_nil, or_false] at hrow
  rcases hrow with rfl | rfl | rfl <;>
    simp [decode, KeyFormat.width, hw, lookupRow, table, decRows, TableRow.takes]

namespace Machine

/-! ## Operations on latches -/

theorem onLatches_noInvocation {f : Latches → Except Fault Latches} {s : State} (hc : s.cur = none) :
    onLatches f s = .fault .noInvocation := by
  simp [onLatches, hc]

theorem onLatches_error {f : Latches → Except Fault Latches} {s : State} {inv : Invocation} {e : Fault} (hc : s.cur = some inv)
    (hf : f inv.latches = .error e) : onLatches f s = .fault e := by
  simp [onLatches, hc, hf]

theorem onLatches_ok {f : Latches → Except Fault Latches} {s : State} {inv : Invocation} {l : Latches} (hc : s.cur = some inv)
    (hf : f inv.latches = .ok l) : onLatches f s = .next (withCur s inv l) :=
  onLatches_next.mpr ⟨inv, l, hc, hf, rfl⟩

/-- The first of the named latches that holds no value. -/
def firstEmpty (names : List LatchName) (l : Latches) : Option LatchName := names.find? fun n => !l.holds n

theorem firstEmpty_cons (n : LatchName) (names : List LatchName) (l : Latches) :
    firstEmpty (n :: names) l = if l.holds n then firstEmpty names l else some n := by
  cases h : l.holds n <;> simp [firstEmpty, h]

/-- The operation reads the named latches in this order: it faults by the first that holds no value, and else it answers
(R14, R22). -/
structure ReadsInOrder (names : List LatchName) (f : Latches → Except Fault Latches) : Prop where
  faults : ∀ l n, firstEmpty names l = some n → f l = .error (.latchHoldsNoValue n)
  answers : ∀ l, firstEmpty names l = none → ∃ l', f l = .ok l'

/-- An operation that reads nothing more answers. -/
theorem ReadsInOrder.done (g : Latches → Latches) : ReadsInOrder [] fun l => .ok (g l) where
  faults _ _ h := by cases h
  answers l _ := ⟨g l, rfl⟩

/-- Reading one latch first puts it at the head of the order. -/
theorem ReadsInOrder.operand {α : Type} {n : LatchName} {latch : Latches → Option α} {names : List LatchName}
    {k : α → Latches → Except Fault Latches} (hlatch : ∀ l : Latches, l.holds n = (latch l).isSome)
    (hk : ∀ v, ReadsInOrder names (k v)) :
    ReadsInOrder (n :: names) fun l => Machine.operand n (latch l) fun v => k v l where
  faults l m h := by
    rw [firstEmpty_cons, hlatch] at h
    cases hl : latch l with
    | none =>
      obtain rfl : n = m := by simpa [hl] using h
      rfl
    | some v => exact (hk v).faults l m (by simpa [hl] using h)
  answers l h := by
    rw [firstEmpty_cons, hlatch] at h
    cases hl : latch l with
    | none => simp [hl] at h
    | some v => exact (hk v).answers l (by simpa [hl] using h)

theorem passTop_reads : ReadsInOrder [.st] passTop :=
  .operand (fun _ => rfl) fun _ => .done _

theorem blendGlobal_reads : ReadsInOrder [.st, .sb, .cf] blendGlobal :=
  .operand (fun _ => rfl) fun _ => .operand (fun _ => rfl) fun _ => .operand (fun _ => rfl) fun _ => .done _

theorem brightenTop_reads : ReadsInOrder [.st, .cf] brightenTop :=
  .operand (fun _ => rfl) fun _ => .operand (fun _ => rfl) fun _ => .done _

theorem darkenTop_reads : ReadsInOrder [.st, .cf] darkenTop :=
  .operand (fun _ => rfl) fun _ => .operand (fun _ => rfl) fun _ => .done _

/-- Each of the 24 stage operations runs on the latches of the current invocation and reads those of its Operands line, in that
order. -/
theorem exec_stage {i : Instr} (hi : (latchWritten i).isSome) (s : State) :
    ∃ f, ReadsInOrder (latchReads i) f ∧ exec i s = onLatches f s := by
  cases i
  case pixel | frame => cases hi
  case subbBlack => exact ⟨_, .done _, rfl⟩
  case decLt => exact ⟨decLtLatches s.layout, .operand (fun _ => rfl) fun _ => .done _, rfl⟩
  case decLb => exact ⟨decLbLatches s.layout, .operand (fun _ => rfl) fun _ => .done _, rfl⟩
  case decP3 => exact ⟨decP3Latches, .operand (fun _ => rfl) fun _ => .done _, rfl⟩
  case subtKeep | subt3d | subtFall | subbKeep | subb3d | mbNone =>
    exact ⟨_, .operand (fun _ => rfl) fun _ => .done _, rfl⟩
  case mbUp | mbDown =>
    exact ⟨_, .operand (fun _ => rfl) fun _ => .operand (fun _ => rfl) fun _ => .done _, rfl⟩
  case resB3d | resBpp =>
    exact ⟨_, .operand (fun _ => rfl) fun _ => .operand (fun _ => rfl) fun _ => .operand (fun _ => rfl) fun _ => .done _, rfl⟩
  case resFxnone | resFxnoneM2 | resFxapass | resFxapassM2 => exact ⟨_, passTop_reads, rfl⟩
  case resBgl | resFxalpha => exact ⟨_, blendGlobal_reads, rfl⟩
  case resFxup | resFxupM2 => exact ⟨_, brightenTop_reads, rfl⟩
  case resFxdown | resFxdownM2 => exact ⟨_, darkenTop_reads, rfl⟩

/-- Settles O34: `exec_stage` gives the operation as one that reads its latches in order; then by whether an invocation is current,
and by the first of the latches that is empty. -/
theorem stageOperationsRunWhenOperandsHeld : Obligations.StageOperationsRunWhenOperandsHeld := by
  intro i s hi
  obtain ⟨f, hreads, hexec⟩ := exec_stage hi s
  rw [hexec]
  cases hcur : s.cur with
  | none => exact onLatches_noInvocation hcur
  | some inv =>
    cases hfirst : firstEmpty (latchReads i) inv.latches with
    | some n =>
      rw [firstEmpty] at hfirst
      simp only [hfirst]
      exact onLatches_error hcur (hreads.faults _ n hfirst)
    | none =>
      obtain ⟨l, hl⟩ := hreads.answers _ hfirst
      rw [firstEmpty] at hfirst
      simp only [hfirst]
      exact ⟨_, onLatches_ok hcur hl⟩

/-! ## The two decodes of a layer word -/

theorem exec_decLt {s : State} {inv : Invocation} {w : Word32} (hcur : s.cur = some inv) (hw : inv.latches.wt = some w) :
    exec .decLt s = .next (withCur s inv { inv.latches with lt := some (decodeLayer s.layout w) }) :=
  onLatches_ok (f := decLtLatches s.layout) hcur (by simp [decLtLatches, hw])

theorem exec_decLb {s : State} {inv : Invocation} {w : Word32} (hcur : s.cur = some inv) (hw : inv.latches.wb = some w) :
    exec .decLb s = .next (withCur s inv { inv.latches with lb := some (decodeLayer s.layout w) }) :=
  onLatches_ok (f := decLbLatches s.layout) hcur (by simp [decLbLatches, hw])

/-- Settles O8: the first row of the decoder takes every word, and DEC.LT writes the decoded word, given by its fields. -/
theorem decLtDecodesTopWord : Obligations.DecLtDecodesTopWord := by
  refine ⟨decode_of_mem_decRows (row := ⟨.layerT, 0x0, 0x0, .decLt⟩) (by decide), fun s inv w hcur hw => ?_,
    fun s inv w hlayout hcur hw => ?_⟩
  · rw [exec_decLt hcur hw, decodeLayer_eq_fields]
  · rw [exec_decLt hcur hw, hlayout, decodeLayer_eq_fields]
    rfl

/-- Settles O9: the second row of the decoder takes every word, and DEC.LB writes the decoded word, given by its fields. -/
theorem decLbDecodesBottomWord : Obligations.DecLbDecodesBottomWord := by
  refine ⟨decode_of_mem_decRows (row := ⟨.layerB, 0x0, 0x0, .decLb⟩) (by decide), fun s inv w hcur hw => ?_,
    fun s inv w hlayout hcur hw => ?_⟩
  · rw [exec_decLb hcur hw, decodeLayer_eq_fields]
  · rw [exec_decLb hcur hw, hlayout, decodeLayer_eq_fields]
    rfl

/-! ## No step changes the layout -/

/-- A stage operation changes the latches at most. -/
theorem stage_layout {i : Instr} {s t : State} (h : exec i s = .next t) (hi : (latchWritten i).isSome) : t.layout = s.layout := by
  obtain ⟨f, -, hexec⟩ := exec_stage hi s
  obtain ⟨inv, l, -, -, rfl⟩ := onLatches_next.mp (hexec.symm.trans h)
  rfl

theorem fetchCur_layout {s t : State} (h : fetchCur s = .next t) : t.layout = s.layout := by
  obtain ⟨inv, f, -, -, rfl⟩ := fetchCur_next.mp h
  rfl

theorem storeCur_layout {s t : State} (h : storeCur s = .next t) : t.layout = s.layout := by
  obtain ⟨inv, v, -, -, rfl⟩ := storeCur_next.mp h
  simp

theorem pixelAt_layout {p : Pos} {s t : State} (h : pixelAt p s = .next t) : t.layout = s.layout := by
  obtain ⟨-, -, f, -, rfl⟩ := pixelAt_next.mp h
  simp

theorem pixelsFrom_layout {k : Nat} : ∀ {i : Nat} {s t : State}, pixelsFrom k i s = .next t → t.layout = s.layout := by
  induction k with
  | zero =>
    intro i s t h
    cases h
    rfl
  | succ k ih =>
    intro i s t h
    obtain ⟨p, u, -, hpixel, hrest⟩ := pixelsFrom_succ_next h
    exact (ih hrest).trans (pixelAt_layout hpixel)

theorem frameStart_layout {screen : Screen} {s t : State} (h : frameStart screen s = .next t) : t.layout = s.layout := by
  obtain ⟨-, -, rfl⟩ := frameStart_next.mp h
  rfl

theorem frameAck_layout {s t : State} (h : frameAck s = .next t) : t.layout = s.layout := by
  obtain ⟨-, rfl⟩ := frameAck_next.mp h
  rfl

theorem hostWrite_layout {f : Memory → Memory} {s t : State} (h : hostWrite f s = .next t) : t.layout = s.layout := by
  obtain ⟨-, rfl⟩ := hostWrite_next.mp h
  rfl

theorem writeCfgCodes_layout {screen : Screen} {row : Row} {c : CfgCodes} {s t : State}
    (h : writeCfgCodes screen row c s = .next t) : t.layout = s.layout := by
  obtain ⟨rec, -, -, rfl⟩ := writeCfgCodes_next.mp h
  rfl

theorem presentRead_layout {y : Fin 384} {col : Col} {s t : State} (h : presentRead y col s = .next t) : t.layout = s.layout := by
  obtain ⟨-, v, -, rfl⟩ := presentRead_next.mp h
  rfl

theorem beginAt_layout {p : Pos} {s t : State} (h : beginAt p s = .next t) : t.layout = s.layout := by
  obtain ⟨-, -, rfl⟩ := beginAt_next.mp h
  rfl

theorem selectAt_layout {p : Pos} {s t : State} (h : selectAt p s = some t) : t.layout = s.layout := by
  obtain ⟨inv, -, -, rfl⟩ := selectAt_some h
  rfl

/-- No operation of the table changes the layout. -/
theorem exec_layout {i : Instr} {s t : State} (h : exec i s = .next t) : t.layout = s.layout := by
  cases i
  case pixel screen row col =>
    obtain ⟨p, -, -, -, hpixel⟩ := execPixel_next h
    exact pixelAt_layout hpixel
  case frame screen3d =>
    obtain ⟨screen, u, -, hstart, hpixels⟩ := execFrame_next h
    exact (pixelsFrom_layout hpixels).trans (frameStart_layout hstart)
  all_goals exact stage_layout h rfl

/-- The next line of the current invocation keeps the layout. -/
theorem selectLine_layout {s t : State} (h : runSelection (selectLine s) = .next t) : t.layout = s.layout := by
  unfold selectLine at h
  split at h
  · cases h
  · split at h
    · exact fetchCur_layout h
    · exact storeCur_layout h
    · split at h
      · exact exec_layout h
      · cases h

/-- A move of the host or of the scheduler keeps the layout. -/
theorem selectMove_layout {m : Move} {s t : State} (h : runSelection (selectMove m s) = .next t) : t.layout = s.layout := by
  cases m with
  | writeTop p w => exact hostWrite_layout h
  | writeBot p w => exact hostWrite_layout h
  | writeG3d row col w => exact hostWrite_layout h
  | writeCfg screen row c => exact hostWrite_layout h
  | writeCfgCodes screen row c => exact writeCfgCodes_layout h
  | frameStart screen => exact frameStart_layout h
  | frameAck => exact frameAck_layout h
  | readOut y col => exact presentRead_layout h
  | compositeFrame screen => exact exec_layout (i := .frame screen.val) h
  | runPixel p => exact exec_layout (i := pixelInstr p) h
  | beginPixel p => exact beginAt_layout h
  | advance p =>
    simp only [selectMove] at h
    split at h
    · cases h
    · rename_i u hu
      exact (selectLine_layout h).trans (selectAt_layout hu)

/-- What the machine does by itself keeps the layout. -/
theorem selectOwn_layout {s t : State} (h : runSelection (selectOwn s) = .next t) : t.layout = s.layout := by
  unfold selectOwn at h
  split at h
  · cases h
    rfl
  · cases h
    rfl
  · split at h
    · exact selectLine_layout h
    · split at h
      · exact (selectLine_layout h).trans rfl
      · split at h
        · exact exec_layout (i := pixelInstr _) h
        · cases h

theorem step_layout {s t : State} (h : step s = .next t) : t.layout = s.layout := by
  unfold step select at h
  split at h
  · exact (selectMove_layout h).trans rfl
  · exact selectOwn_layout h

/-- Settles O60: by the layout lemma of each kind of step, and because `pixel` sees its layer words only through the decoder, which
reads back the packed pixels under either layout. -/
theorem layoutIsAnArgument : Obligations.LayoutIsAnArgument := by
  refine ⟨fun s t h => step_layout h, fun L K top bottom w3 cf hL hK => ?_⟩
  simp only [pixel, decodeLayer_encodeLayer hL, decodeLayer_encodeLayer hK]

end Machine
end Sys2Proof

/-! PROOFS. What the words select (R69 to R73) and what one step of the machine does and leaves unchanged: the latches (R22, R26), PIXEL
and FRAME (R131 to R135), the handshake (R34), and the invariant of a frame in progress. -/

namespace Sys2Proof

/-! ## Decoding the word of an operation -/

theorem decode_position {p : Nat} (hp : p < Config.pixels) :
    decode .position (BitVec.ofNat 32 p) = .ok (.pixel (p / 49152) (p / 256 % 192) (p % 256)) := by
  have hp' : p < 98304 := hp
  have hval : (BitVec.ofNat 32 p).toNat = p := by rw [BitVec.toNat_ofNat]; omega
  have hfits : p < 2 ^ KeyFormat.position.width := by simp only [KeyFormat.width]; omega
  simp only [decode, hval, if_pos hfits, decodePosition, if_pos hp]

/-- The linear form of a position gives its screen, row and column back (R24). -/
theorem linear_digits {screen row col : Nat} (hr : row < 192) (hc : col < 256) :
    linear screen row col / 49152 = screen ∧ linear screen row col / 256 % 192 = row ∧ linear screen row col % 256 = col := by
  simp only [linear]
  omega

theorem decode_encode_pixel {screen row col : Nat} (hs : screen < 2) (hr : row < 192) (hc : col < 256) :
    decode .position (encode (.pixel screen row col)) = .ok (.pixel screen row col) := by
  obtain ⟨hscreen, hrow, hcol⟩ := linear_digits (screen := screen) hr hc
  rw [encode, decode_position (linear_lt hs hr hc), hscreen, hrow, hcol]

theorem decode_encode_frame {screen3d : Nat} (hs : screen3d < 2) :
    decode .frameArg (encode (.frame screen3d)) = .ok (.frame screen3d) := by
  have hval : (BitVec.ofNat 32 screen3d).toNat = screen3d := by rw [BitVec.toNat_ofNat]; omega
  have hfits : screen3d < 2 ^ KeyFormat.frameArg.width := hs
  simp only [encode, decode, hval, if_pos hfits]

/-- The word of a row is the row's own fixed bits, and no row before it takes them. -/
theorem decode_encode_of_mem_table : ∀ row ∈ table, decode row.instr.format (encode row.instr) = .ok row.instr := by decide

/-- Each stage operation has a row of the table. -/
theorem exists_row_of_latchWritten {i : Instr} (hi : (Machine.latchWritten i).isSome) : ∃ row ∈ table, row.instr = i := by
  cases i
  case pixel | frame => cases hi
  all_goals decide

/-- Settles O3: a stage operation by its row of the table, PIXEL and FRAME by their operand. -/
theorem decodeEncodeIdentity : Obligations.DecodeEncodeIdentity := by
  intro i hwf
  cases hi : (Machine.latchWritten i).isSome with
  | true =>
    obtain ⟨row, hmem, rfl⟩ := exists_row_of_latchWritten hi
    exact decode_encode_of_mem_table row hmem
  | false =>
    cases i
    case pixel screen row col =>
      obtain ⟨hs, hr, hc⟩ := (wellFormed_pixel screen row col).mp hwf
      exact decode_encode_pixel hs hr hc
    case frame screen3d => exact decode_encode_frame ((wellFormed_frame screen3d).mp hwf)
    all_goals cases hi

namespace Machine

/-! ## A stage operation writes one latch -/

/-- The operation writes the latch `d` when it answers, and no other. -/
def WritesOnly (d : LatchName) (f : Latches → Except Fault Latches) : Prop :=
  ∀ l l', f l = .ok l' → l'.without d = l.without d ∧ l'.holds d = true

theorem WritesOnly.done {d : LatchName} {g : Latches → Latches} (hrest : ∀ l, (g l).without d = l.without d)
    (hheld : ∀ l, (g l).holds d = true) : WritesOnly d fun l => .ok (g l) := by
  intro l l' h
  cases h
  exact ⟨hrest l, hheld l⟩

/-- Reading a latch first writes nothing. -/
theorem WritesOnly.operand {α : Type} {d n : LatchName} {latch : Latches → Option α} {k : α → Latches → Except Fault Latches}
    (hk : ∀ v, WritesOnly d (k v)) : WritesOnly d fun l => Machine.operand n (latch l) fun v => k v l := by
  intro l l' h
  obtain ⟨v, -, hv⟩ := operand_ok.mp h
  exact hk v l l' hv

theorem writesOnly_setSt (v : Color) : WritesOnly .st fun l => .ok (setSt v l) := .done (fun _ => rfl) fun _ => rfl
theorem writesOnly_setSb (v : Color) : WritesOnly .sb fun l => .ok (setSb v l) := .done (fun _ => rfl) fun _ => rfl
theorem writesOnly_setCc (v : Color) : WritesOnly .cc fun l => .ok (setCc v l) := .done (fun _ => rfl) fun _ => rfl
theorem writesOnly_setOc (v : OutEl) : WritesOnly .oc fun l => .ok (setOc v l) := .done (fun _ => rfl) fun _ => rfl

theorem passTop_writesOnly : WritesOnly .cc passTop := .operand fun _ => writesOnly_setCc _

theorem blendGlobal_writesOnly : WritesOnly .cc blendGlobal :=
  .operand fun _ => .operand fun _ => .operand fun _ => writesOnly_setCc _

theorem brightenTop_writesOnly : WritesOnly .cc brightenTop := .operand fun _ => .operand fun _ => writesOnly_setCc _

theorem darkenTop_writesOnly : WritesOnly .cc darkenTop := .operand fun _ => .operand fun _ => writesOnly_setCc _

/-- Each of the 24 stage operations runs on the latches of the current invocation and writes its destination only (R26). -/
theorem exec_writesOnly {i : Instr} {d : LatchName} (hi : latchWritten i = some d) (s : State) :
    ∃ f, WritesOnly d f ∧ exec i s = onLatches f s := by
  cases i <;> cases hi
  case decLt => exact ⟨decLtLatches s.layout, .operand fun _ => .done (fun _ => rfl) fun _ => rfl, rfl⟩
  case decLb => exact ⟨decLbLatches s.layout, .operand fun _ => .done (fun _ => rfl) fun _ => rfl, rfl⟩
  case decP3 => exact ⟨decP3Latches, .operand fun _ => .done (fun _ => rfl) fun _ => rfl, rfl⟩
  case subtKeep | subt3d | subtFall => exact ⟨_, .operand fun _ => writesOnly_setSt _, rfl⟩
  case subbKeep | subb3d => exact ⟨_, .operand fun _ => writesOnly_setSb _, rfl⟩
  case subbBlack => exact ⟨_, writesOnly_setSb _, rfl⟩
  case resB3d | resBpp => exact ⟨_, .operand fun _ => .operand fun _ => .operand fun _ => writesOnly_setCc _, rfl⟩
  case resFxnone | resFxnoneM2 | resFxapass | resFxapassM2 => exact ⟨_, passTop_writesOnly, rfl⟩
  case resBgl | resFxalpha => exact ⟨_, blendGlobal_writesOnly, rfl⟩
  case resFxup | resFxupM2 => exact ⟨_, brightenTop_writesOnly, rfl⟩
  case resFxdown | resFxdownM2 => exact ⟨_, darkenTop_writesOnly, rfl⟩
  case mbNone => exact ⟨_, .operand fun _ => writesOnly_setOc _, rfl⟩
  case mbUp | mbDown => exact ⟨_, .operand fun _ => .operand fun _ => writesOnly_setOc _, rfl⟩

/-- Settles O35: an operation on latches changes nothing but the current invocation's latches, and of those its destination
(`exec_writesOnly`). -/
theorem stageOperationsChangeOneLatch : Obligations.StageOperationsChangeOneLatch := by
  intro i s t d hi h
  obtain ⟨f, hwrites, hexec⟩ := exec_writesOnly hi s
  obtain ⟨inv, l, hcur, hl, rfl⟩ := onLatches_next.mp (hexec.symm.trans h)
  obtain ⟨hrest, hheld⟩ := hwrites _ _ hl
  exact ⟨inv, l, hcur, rfl, hrest, hheld, rfl, rfl, rfl, rfl, rfl, rfl, rfl, rfl⟩

/-! ## What is not enabled, and ill-formed operands -/

theorem enabled_eq_false {p : Pos} {s : State} (h : s.phase ≠ .run ∨ begun s p) : enabled p s = false := by
  rw [← Bool.not_eq_true, enabled_iff]
  rintro ⟨hrun, hfree⟩
  rcases h with h | h
  · exact h hrun
  · rw [begun, hfree] at h
    cases h

theorem pixelAt_notEnabled {p : Pos} {s : State} (h : enabled p s = false) : pixelAt p s = .refused .notEnabled := by
  simp [pixelAt, h]

theorem beginAt_notEnabled {p : Pos} {s : State} (h : enabled p s = false) : beginAt p s = .refused .notEnabled := by
  simp [beginAt, h]

/-- An ill-formed operand triple names no position (R24). -/
theorem posOf_eq_none {screen row col : Nat} (h : (Instr.pixel screen row col).wellFormed = false) : posOf screen row col = none := by
  cases hp : posOf screen row col with
  | none => rfl
  | some p =>
    obtain ⟨rfl, rfl, rfl⟩ := posOf_some hp
    rw [(wellFormed_pixel _ _ _).mpr ⟨p.screen.isLt, p.row.isLt, p.col.isLt⟩] at h
    cases h

/-- An ill-formed operand names no screen (R42). -/
theorem screenOf_eq_none {n : Nat} (h : (Instr.frame n).wellFormed = false) : screenOf n = none := by
  rw [← Bool.not_eq_true, wellFormed_frame] at h
  exact dif_neg h

/-- Settles O42: a position that is not enabled is refused by both ways of running it, and operands that name nothing are refused
before anything else is looked at. -/
theorem notEnabledIsRefused : Obligations.NotEnabledIsRefused := by
  refine ⟨fun s p h => ?_, fun s screen row col h => ?_, fun s n h => ?_⟩
  · have hoff := enabled_eq_false h
    exact ⟨(execPixel_pos p s).trans (pixelAt_notEnabled hoff), beginAt_notEnabled hoff⟩
  · simp [exec, execPixel, posOf_eq_none h]
  · simp [exec, execFrame, screenOf_eq_none h]

/-! ## The handshake -/

/-- A canonical buffer in which the flag is clear on every other screen has no slot flagged off the screen (R61, R144). -/
theorem flaggedOffScreen_eq_false {L : Config.LayerLayout} {screen : Screen} {b : Buf Word32} (hb : bufWf Config.pixels b)
    (hclear : ∀ (p : Pos) (w : Word32), p.screen ≠ screen → readBuf b (posIndex p) = some w → w.getLsbD L.d = false) :
    flaggedOffScreen L screen b = false := by
  rw [flaggedOffScreen, List.any_eq_false]
  intro e he hflag
  rw [Bool.and_eq_true, decide_eq_true_eq] at hflag
  obtain ⟨hoff, hset⟩ := hflag
  obtain ⟨p, hp, hindex⟩ := posOfIndex_isSome (hb.2 e he)
  have hscreen : p.screen ≠ screen := by
    rintro rfl
    exact hoff (posOf_some hp).1
  have hread : readBuf b (posIndex p) = some e.2 := by rw [hindex]; exact readBuf_of_mem hb he
  have hd : e.2.getLsbD L.d = true := hset
  rw [hclear p e.2 hscreen hread] at hd
  cases hd

/-- In canonical buffers the check of frame_start finds no slot where no word has the flag off the screen. -/
theorem no3dOffScreen_of_noSlotOff {L : Config.LayerLayout} {screen : Screen} {m : Memory} (hm : m.wf) (h : noSlotOff L screen m) :
    no3dOffScreen L screen m := by
  obtain ⟨htop, hbot, -⟩ := hm
  exact ⟨flaggedOffScreen_eq_false htop fun p w hp hw => h p w hp (.inl hw),
    flaggedOffScreen_eq_false hbot fun p w hp hw => h p w hp (.inr hw)⟩

/-- Settles O58: each move is taken off the list and is the operation of the handshake of that name, which completes. -/
theorem handshakeMoves : Obligations.HandshakeMoves := by
  intro s ms
  refine ⟨fun screen hidle hwf hslot => ?_, fun y col v hdone hv => ?_, fun hdone => ?_⟩
  · exact frameStart_next.mpr ⟨hidle, no3dOffScreen_of_noSlotOff hwf hslot, rfl⟩
  · exact presentRead_next.mpr ⟨hdone, v, hv, rfl⟩
  · exact frameAck_next.mpr ⟨hdone, rfl⟩

end Machine
end Sys2Proof

namespace Sys2Proof.Machine

/-! ## What PIXEL and FRAME leave unchanged -/

theorem readBuf_storeAt_other {m : Memory} {p : Pos} {v : OutEl} {a : Nat} (h : a ≠ posIndex p) :
    readBuf (storeAt m p v).out a = readBuf m.out a :=
  readBuf_writeBuf_other _ _ (by rwa [outIndex_eq])

/-- What PIXEL leaves unchanged wherever it runs: the inputs, the invocations in flight, the frame's argument, the moves and what
PRESENT has read (R45, R46). -/
structure PixelKeeps (s t : State) : Prop where
  inputs : sameInputs t.mem s.mem
  layout : t.layout = s.layout
  cur : t.cur = s.cur
  waiting : t.waiting = s.waiting
  moves : t.moves = s.moves
  shown : t.shown = s.shown
  screen3d : t.screen3d = s.screen3d

theorem PixelKeeps.refl (s : State) : PixelKeeps s s := ⟨⟨rfl, rfl, rfl, rfl⟩, rfl, rfl, rfl, rfl, rfl, rfl⟩

theorem sameInputs_trans {k m n : Memory} (h : sameInputs k m) (h' : sameInputs m n) : sameInputs k n := by
  obtain ⟨htop, hbot, hg3d, hcfg⟩ := h
  obtain ⟨htop', hbot', hg3d', hcfg'⟩ := h'
  exact ⟨htop.trans htop', hbot.trans hbot', hg3d.trans hg3d', hcfg.trans hcfg'⟩

theorem PixelKeeps.trans {s t u : State} (h : PixelKeeps s t) (h' : PixelKeeps t u) : PixelKeeps s u where
  inputs := sameInputs_trans h'.inputs h.inputs
  layout := h'.layout.trans h.layout
  cur := h'.cur.trans h.cur
  waiting := h'.waiting.trans h.waiting
  moves := h'.moves.trans h.moves
  shown := h'.shown.trans h.shown
  screen3d := h'.screen3d.trans h.screen3d

theorem pixelAt_keeps {p : Pos} {s t : State} (h : pixelAt p s = .next t) : PixelKeeps s t := by
  obtain ⟨-, -, f, -, rfl⟩ := pixelAt_next.mp h
  constructor <;> simp [sameInputs]

theorem pixelAt_started {p : Pos} {s t : State} (h : pixelAt p s = .next t) :
    readBuf s.started (posIndex p) = none ∧ t.started = writeBuf s.started (posIndex p) () := by
  obtain ⟨-, hfree, f, -, rfl⟩ := pixelAt_next.mp h
  exact ⟨hfree, by simp⟩

theorem pixelAt_out_other {p : Pos} {s t : State} (h : pixelAt p s = .next t) {a : Nat} (ha : a ≠ posIndex p) :
    readBuf t.mem.out a = readBuf s.mem.out a := by
  obtain ⟨-, -, f, -, rfl⟩ := pixelAt_next.mp h
  rw [finishFrame_mem]
  exact readBuf_storeAt_other ha

/-- The end of a frame keeps the phase or makes it Done. -/
theorem finishFrame_phase (s : State) : (finishFrame s).phase = s.phase ∨ (finishFrame s).phase = .done := by
  rcases finishFrame_eq s with ⟨h, -⟩ | ⟨h, -⟩
  · exact .inl (by rw [h])
  · exact .inr (by rw [h])

theorem pixelAt_phase {p : Pos} {s t : State} (h : pixelAt p s = .next t) : t.phase = s.phase ∨ t.phase = .done := by
  obtain ⟨-, -, f, -, rfl⟩ := pixelAt_next.mp h
  exact finishFrame_phase _

/-- PIXEL at the last position left, no invocation in flight, makes the frame Done (R34). -/
theorem pixelAt_last {p : Pos} {s t : State} (h : pixelAt p s = .next t) (hlast : s.started.length + 1 = Config.pixels)
    (hcur : s.cur = none) (hwait : s.waiting = []) : t.phase = .done := by
  obtain ⟨hrun, hfree, f, -, rfl⟩ := pixelAt_next.mp h
  rw [finishFrame, if_pos]
  exact ⟨hrun, (length_writeBuf_free () hfree).trans hlast, hcur, hwait⟩

theorem pixelsFrom_keeps {k : Nat} : ∀ {i : Nat} {s t : State}, pixelsFrom k i s = .next t → PixelKeeps s t := by
  induction k with
  | zero =>
    intro i s t h
    cases h
    exact .refl s
  | succ k ih =>
    intro i s t h
    obtain ⟨p, u, -, hpixel, hrest⟩ := pixelsFrom_succ_next h
    exact (pixelAt_keeps hpixel).trans (ih hrest)

/-- A run of positions begins as many positions as it runs, and the begun set stays canonical. -/
theorem pixelsFrom_started {k : Nat} : ∀ {i : Nat} {s t : State}, pixelsFrom k i s = .next t → bufWf Config.pixels s.started →
    bufWf Config.pixels t.started ∧ t.started.length = s.started.length + k := by
  induction k with
  | zero =>
    intro i s t h hwf
    cases h
    exact ⟨hwf, rfl⟩
  | succ k ih =>
    intro i s t h hwf
    obtain ⟨p, u, -, hpixel, hrest⟩ := pixelsFrom_succ_next h
    obtain ⟨hfree, hstarted⟩ := pixelAt_started hpixel
    obtain ⟨htwf, hlen⟩ := ih hrest (hstarted ▸ writeBuf_wf () hwf (posIndex_lt p))
    refine ⟨htwf, ?_⟩
    rw [hlen, hstarted, length_writeBuf_free () hfree]
    omega

/-- A run of the positions that are left, no invocation in flight, ends with the frame Done (R34). -/
theorem pixelsFrom_done {k : Nat} : ∀ {i : Nat} {s t : State}, pixelsFrom k i s = .next t → k ≠ 0 → s.cur = none →
    s.waiting = [] → s.started.length + k = Config.pixels → t.phase = .done := by
  induction k with
  | zero => exact fun _ hk => absurd rfl hk
  | succ k ih =>
    intro i s t h _ hcur hwait hlen
    obtain ⟨p, u, -, hpixel, hrest⟩ := pixelsFrom_succ_next h
    cases k with
    | zero =>
      cases hrest
      exact pixelAt_last hpixel hlen hcur hwait
    | succ k =>
      have hkeeps := pixelAt_keeps hpixel
      obtain ⟨hfree, hstarted⟩ := pixelAt_started hpixel
      refine ih hrest k.succ_ne_zero (hkeeps.cur.trans hcur) (hkeeps.waiting.trans hwait) ?_
      rw [hstarted, length_writeBuf_free () hfree]
      omega

/-- A canonical set of indices below `n` with `n` elements holds every one of them. -/
theorem readBuf_of_length_eq {n : Nat} {b : Buf Unit} (hb : bufWf n b) (hlen : b.length = n) {i : Nat} (hi : i < n) :
    readBuf b i = some () := by
  have hnodup : (b.map Prod.fst).Nodup := List.pairwise_map.mpr (hb.1.imp Nat.ne_of_lt)
  have hsub : b.map Prod.fst ⊆ List.range n := fun j hj => by
    obtain ⟨e, he, rfl⟩ := List.mem_map.mp hj
    exact List.mem_range.mpr (hb.2 e he)
  have hperm : (b.map Prod.fst).Perm (List.range n) :=
    (List.subperm_of_subset hnodup hsub).perm_of_length_le (by simp [hlen])
  obtain ⟨e, he, rfl⟩ := List.mem_map.mp (hperm.mem_iff.mpr (List.mem_range.mpr hi))
  exact readBuf_of_mem hb he

/-- Where as many positions have begun as there are, each has. -/
theorem begun_of_length_eq {s : State} (hs : bufWf Config.pixels s.started) (hlen : s.started.length = Config.pixels) (p : Pos) :
    begun s p :=
  readBuf_of_length_eq hs hlen (posIndex_lt p)

theorem screenOf_some {n : Nat} {screen : Screen} (h : screenOf n = some screen) : screen.val = n := by
  unfold screenOf at h
  split at h
  · cases h
    rfl
  · cases h

/-- The state a frame starts in (R34). -/
def startedFrame (screen : Screen) (s : State) : State :=
  { s with phase := .run, screen3d := some screen, started := [], cur := none, waiting := [] }

/-- FRAME is the frame started and a run of every position from the first on (R134). -/
theorem execFrame_started {n : Nat} {s t : State} (h : execFrame n s = .next t) :
    ∃ screen : Screen, screen.val = n ∧ frameStart screen s = .next (startedFrame screen s)
      ∧ pixelsFrom Config.pixels 0 (startedFrame screen s) = .next t := by
  obtain ⟨screen, u, hscreen, hstart, hpixels⟩ := execFrame_next h
  obtain ⟨-, -, rfl⟩ := frameStart_next.mp hstart
  exact ⟨screen, screenOf_some hscreen, hstart, hpixels⟩

/-- FRAME ends Done (R34, R134). -/
theorem execFrame_done {n : Nat} {s t : State} (h : execFrame n s = .next t) : t.phase = .done := by
  obtain ⟨screen, -, -, hpixels⟩ := execFrame_started h
  exact pixelsFrom_done hpixels (by decide) rfl rfl (by simp [startedFrame])

/-- Settles O40: PIXEL by what one position changes; FRAME by what a run of positions keeps, all of which have begun at its end. -/
theorem pixelAndFrameChangeOnlyOutput : Obligations.PixelAndFrameChangeOnlyOutput := by
  refine ⟨fun s t screen row col h => ?_, fun s t n h => ?_⟩
  · obtain ⟨p, rfl, rfl, rfl, hpixel⟩ := execPixel_next h
    have hkeeps := pixelAt_keeps hpixel
    refine ⟨hkeeps.inputs, fun a ha => ?_, fun a ha => ?_, hkeeps.layout, hkeeps.cur, hkeeps.waiting, hkeeps.moves, hkeeps.shown,
      hkeeps.screen3d, pixelAt_phase hpixel⟩
    · exact pixelAt_out_other hpixel (by rw [← outIndex_eq]; exact ha)
    · rw [(pixelAt_started hpixel).2]
      exact readBuf_writeBuf_other _ _ ha
  · obtain ⟨screen, hscreen, -, hpixels⟩ := execFrame_started h
    have hkeeps := pixelsFrom_keeps hpixels
    obtain ⟨hwf, hlen⟩ := pixelsFrom_started hpixels ⟨List.Pairwise.nil, by simp [startedFrame]⟩
    exact ⟨hkeeps.inputs, hkeeps.layout, hkeeps.moves, hkeeps.shown, hkeeps.cur, hkeeps.waiting, execFrame_done h,
      ⟨screen, hscreen, hkeeps.screen3d⟩, begun_of_length_eq hwf (by simpa [startedFrame] using hlen)⟩

/-! ## FRAME and the steps of the machine -/

/-- A run that begins with a step. -/
theorem run_succ {s u : State} (h : step s = .next u) (k : Nat) : Sys2Proof.core.run (k + 1) s = Sys2Proof.core.run k u := by
  have hstep : Sys2Proof.core.step s = .next u := h
  simp only [Host.Core.run, hstep]

/-- The positions that have begun are those below `i`. -/
structure BegunBelow (i : Nat) (b : Buf Unit) : Prop where
  wf : bufWf Config.pixels b
  held : ∀ j, j < i → readBuf b j = some ()
  free : ∀ j, i ≤ j → readBuf b j = none

theorem BegunBelow.succ {i : Nat} {b : Buf Unit} (h : BegunBelow i b) (hi : i < Config.pixels) :
    BegunBelow (i + 1) (writeBuf b i ()) where
  wf := writeBuf_wf () h.wf hi
  held j hj := by
    rw [readBuf_writeBuf]
    split
    · rfl
    · exact h.held j (by omega)
  free j hj := by
    rw [readBuf_writeBuf_other _ _ (by omega)]
    exact h.free j (by omega)

/-- The machine left to itself, no invocation in flight, runs the positions upward (D14). -/
theorem run_of_pixelsFrom {k : Nat} : ∀ {i : Nat} {s t : State}, pixelsFrom k i s = .next t → s.moves = [] → s.cur = none →
    s.waiting = [] → BegunBelow i s.started → Sys2Proof.core.run k s = .next t := by
  induction k with
  | zero =>
    intro i s t h _ _ _ _
    cases h
    rfl
  | succ k ih =>
    intro i s t h hmoves hcur hwait hbegun
    obtain ⟨p, u, rfl, hpixel, hrest⟩ := pixelsFrom_succ_next h
    have hrun := (pixelAt_next.mp hpixel).1
    have hlow : lowestFree 0 s.started = posIndex p := lowestFree_eq hbegun.wf.1 (hbegun.free _ le_rfl) hbegun.held
    have hkeeps := pixelAt_keeps hpixel
    rw [run_succ ((step_ownPixel hrun hmoves hcur hwait hlow).trans hpixel)]
    exact ih hrest (hkeeps.moves.trans hmoves) (hkeeps.cur.trans hcur) (hkeeps.waiting.trans hwait)
      ((pixelAt_started hpixel).2 ▸ hbegun.succ (posIndex_lt p))

/-- Settles O47: the run of positions inside FRAME is the machine's own, position by position (`run_of_pixelsFrom`). -/
theorem frameEqualsItsSteps : Obligations.FrameEqualsItsSteps := by
  intro s t screen hmoves h
  obtain ⟨screen', hval, hstart, hpixels⟩ := execFrame_started h
  obtain rfl := Fin.ext hval
  exact ⟨_, hstart, run_of_pixelsFrom hpixels hmoves rfl rfl
    ⟨⟨List.Pairwise.nil, by simp [startedFrame]⟩, fun j hj => absurd hj j.not_lt_zero, fun j _ => rfl⟩⟩

end Sys2Proof.Machine

namespace Sys2Proof.Machine

/-! ## What one step does -/

/-- `v` is `s` with an invocation in flight current, the one that goes on: it was current already, or it heads those that wait, or the
scheduler named it (log 8). -/
inductive Resumes (s : State) : State → Prop where
  | current : Resumes s s
  | waiting (inv : Invocation) (rest : List Invocation) : s.cur = none → s.waiting = inv :: rest →
      Resumes s { s with cur := some inv, waiting := rest }
  | named (p : Pos) (v : State) : selectAt p s = some v → Resumes s v

/-- What the step from `s` to `t` did; `ms` are the moves that are left. -/
inductive StepCase (s t : State) : Prop where
  | waits : s.phase ≠ .run → t = s → StepCase s t
  | writes (ms : List Move) (f : Memory → Memory) : (∀ m : Memory, m.wf → (f m).wf) →
      hostWrite f { s with moves := ms } = .next t → StepCase s t
  | starts (screen : Screen) (ms : List Move) : s.moves = .frameStart screen :: ms →
      frameStart screen { s with moves := ms } = .next t → StepCase s t
  | acks (ms : List Move) : s.moves = .frameAck :: ms → frameAck { s with moves := ms } = .next t → StepCase s t
  | reads (y : Fin 384) (col : Col) (ms : List Move) : presentRead y col { s with moves := ms } = .next t → StepCase s t
  | composites (screen : Screen) (ms : List Move) : s.moves = .compositeFrame screen :: ms →
      execFrame screen.val { s with moves := ms } = .next t → StepCase s t
  | runsPixel (p : Pos) (ms : List Move) : pixelAt p { s with moves := ms } = .next t → StepCase s t
  | begins (p : Pos) (ms : List Move) : beginAt p { s with moves := ms } = .next t → StepCase s t
  | advances (ms : List Move) (v : State) : Resumes { s with moves := ms } v → runSelection (selectLine v) = .next t → StepCase s t

/-- A move taken off the list does what its name says. -/
theorem stepCase_of_move {m : Move} {ms : List Move} {s t : State} (hm : s.moves = m :: ms)
    (h : runSelection (selectMove m { s with moves := ms }) = .next t) : StepCase s t := by
  cases m with
  | writeTop p w => exact .writes ms _ (fun m hm => writeTop_wf hm p w) h
  | writeBot p w => exact .writes ms _ (fun m hm => writeBot_wf hm p w) h
  | writeG3d row col w => exact .writes ms _ (fun m hm => writeG3d_wf hm row col w) h
  | writeCfg screen row c => exact .writes ms _ (fun m hm => writeCfg_wf hm screen row c) h
  | writeCfgCodes screen row c =>
    obtain ⟨rec, -, hidle, rfl⟩ := writeCfgCodes_next.mp h
    exact .writes ms _ (fun m hm => writeCfg_wf hm screen row rec) (hostWrite_next.mpr ⟨hidle, rfl⟩)
  | frameStart screen => exact .starts screen ms hm h
  | frameAck => exact .acks ms hm h
  | readOut y col => exact .reads y col ms h
  | compositeFrame screen => exact .composites screen ms hm h
  | runPixel p => exact .runsPixel p ms ((execPixel_pos p _).symm.trans h)
  | beginPixel p => exact .begins p ms h
  | advance p =>
    simp only [selectMove] at h
    split at h
    · cases h
    · rename_i v hv
      exact .advances ms v (.named p v hv) h

/-- With no move taken the machine waits, goes on with an invocation in flight, or runs a whole position. -/
theorem stepCase_of_own {s t : State} (h : runSelection (selectOwn s) = .next t) : StepCase s t := by
  unfold selectOwn at h
  split at h
  next hidle =>
    cases h
    exact .waits (by rw [hidle]; decide) rfl
  next hdone =>
    cases h
    exact .waits (by rw [hdone]; decide) rfl
  next hrun =>
    split at h
    next => exact .advances s.moves s .current h
    next hcur =>
      split at h
      next inv rest hwait => exact .advances s.moves _ (.waiting inv rest hcur hwait) h
      next =>
        split at h
        next p hp => exact .runsPixel p s.moves ((execPixel_pos p s).symm.trans h)
        next => cases h

/-- Everything a step can do. -/
theorem step_cases {s t : State} (h : step s = .next t) : StepCase s t := by
  unfold step select at h
  split at h
  next m ms hm => exact stepCase_of_move hm h
  next => exact stepCase_of_own h

/-- Everything a line of the current invocation can do: the fetch, the store, or the operation that the word it reads selects. -/
theorem selectLine_cases {s t : State} (h : runSelection (selectLine s) = .next t) :
    fetchCur s = .next t ∨ storeCur s = .next t
      ∨ ∃ inv k w i, s.cur = some inv ∧ nextLine inv.latches = .operation k w ∧ decode k w = .ok i ∧ exec i s = .next t := by
  unfold selectLine at h
  split at h
  next => cases h
  next inv hcur =>
    split at h
    next => exact .inl h
    next => exact .inr (.inl h)
    next k w hline =>
      split at h
      next i hi => exact .inr (.inr ⟨inv, k, w, i, hcur, hline, hi, h⟩)
      next => cases h

/-! ## The phase -/

/-- The phase stays, or the last invocation of a frame has stored (R34). -/
def KeepsPhaseOrEnds (s t : State) : Prop :=
  t.phase = s.phase
    ∨ s.phase = .run ∧ t.phase = .done ∧ t.started.length = Config.pixels ∧ t.cur = none ∧ t.waiting = []

theorem finishFrame_keepsPhaseOrEnds (s : State) : KeepsPhaseOrEnds s (finishFrame s) := by
  rcases finishFrame_eq s with ⟨h, -⟩ | ⟨h, hrun, hlen, hcur, hwait⟩
  · exact .inl (by rw [h])
  · rw [h]
    exact .inr ⟨hrun, rfl, hlen, hcur, hwait⟩

theorem resumes_phase {s v : State} (h : Resumes s v) : v.phase = s.phase := by
  cases h with
  | current => rfl
  | waiting => rfl
  | named p v hv =>
    obtain ⟨inv, -, -, rfl⟩ := selectAt_some hv
    rfl

/-! ## The operation that is due -/

/-- The next line is the operation that reads this word: the latches the word is formed from, and those the operation reads, are
held, and the one it writes is empty (R69 to R73, R131). -/
inductive Due (l : Latches) : KeyFormat → BitVec 32 → Prop where
  | decLt {wt : Word32} : l.wt = some wt → l.lt = none → Due l .layerT wt
  | decLb {wb : Word32} : l.wb = some wb → l.lb = none → Due l .layerB wb
  | decP3 {w3 : Word32} : l.w3 = some w3 → l.p3 = none → Due l .p3d w3
  | substTop {lt lb : LayerPixel} {p3 : Pixel3D} : l.lt = some lt → l.lb = some lb → l.p3 = some p3 → l.st = none →
      Due l .subkeyT (subKey lt p3)
  | substBottom {lb : LayerPixel} {p3 : Pixel3D} : l.lb = some lb → l.p3 = some p3 → l.sb = none → Due l .subkeyB (subKey lb p3)
  | resolves {lt lb : LayerPixel} {p3 : Pixel3D} {cf : CfgRec} {st sb : Color} : l.lt = some lt → l.lb = some lb → l.p3 = some p3 →
      l.cf = some cf → l.st = some st → l.sb = some sb → l.cc = none → Due l .reskey (resKey lt lb cf)
  | brightness {cf : CfgRec} {cc : Color} : l.cf = some cf → l.cc = some cc → l.oc = none → Due l .mbkey (mbKey cf)

theorem exists_of_isNone_ne_true {α : Type} {o : Option α} (h : ¬ o.isNone = true) : ∃ v, o = some v :=
  Option.ne_none_iff_exists'.mp (by simpa using h)

theorem due_of_nextLine {l : Latches} {k : KeyFormat} {w : BitVec 32} (h : nextLine l = .operation k w) : Due l k w := by
  unfold nextLine at h
  split at h
  next wt wb w3 cf hwt hwb hw3 hcf =>
    split at h
    next hlt => cases h; exact .decLt hwt hlt
    next hlb => cases h; exact .decLb hwb hlb
    next hp3 => cases h; exact .decP3 hw3 hp3
    next lt lb p3 hlt hlb hp3 =>
      split at h
      next hst => cases h; exact .substTop hlt hlb hp3 (Option.isNone_iff_eq_none.mp hst)
      next hst =>
        split at h
        next hsb => cases h; exact .substBottom hlb hp3 (Option.isNone_iff_eq_none.mp hsb)
        next hsb =>
          obtain ⟨st, hst⟩ := exists_of_isNone_ne_true hst
          obtain ⟨sb, hsb⟩ := exists_of_isNone_ne_true hsb
          split at h
          next hcc => cases h; exact .resolves hlt hlb hp3 hcf hst hsb (Option.isNone_iff_eq_none.mp hcc)
          next hcc =>
            obtain ⟨cc, hcc⟩ := exists_of_isNone_ne_true hcc
            split at h
            next hoc => cases h; exact .brightness hcf hcc (Option.isNone_iff_eq_none.mp hoc)
            next => cases h
  next => cases h

/-- Each row of the table is a stage operation's. -/
theorem latchWritten_of_mem_table : ∀ row ∈ table, (latchWritten row.instr).isSome := by decide

theorem latchWritten_of_lookupRow {k : KeyFormat} {w : BitVec 32} {i : Instr} (h : lookupRow k w = .ok i) :
    (latchWritten i).isSome := by
  unfold lookupRow at h
  split at h
  next row hrow =>
    cases h
    exact latchWritten_of_mem_table row (List.mem_of_find?_eq_some hrow)
  next => cases h

/-- A word that a stage reads selects a stage operation, and neither PIXEL nor FRAME. -/
theorem latchWritten_of_due {l : Latches} {k : KeyFormat} {w : BitVec 32} {i : Instr} (h : Due l k w) (hi : decode k w = .ok i) :
    (latchWritten i).isSome := by
  unfold decode at hi
  split at hi
  next => cases h <;> exact latchWritten_of_lookupRow hi
  next => cases hi

theorem stage_keepsPhaseOrEnds {i : Instr} {s t : State} (hi : (latchWritten i).isSome) (h : exec i s = .next t) :
    KeepsPhaseOrEnds s t := by
  obtain ⟨f, -, hexec⟩ := exec_stage hi s
  obtain ⟨inv, l, -, -, rfl⟩ := onLatches_next.mp (hexec.symm.trans h)
  exact .inl rfl

/-- A line of an invocation ends the frame or keeps its phase (R34, R132). -/
theorem selectLine_keepsPhaseOrEnds {s t : State} (h : runSelection (selectLine s) = .next t) : KeepsPhaseOrEnds s t := by
  rcases selectLine_cases h with hfetch | hstore | ⟨inv, k, w, i, -, hline, hi, hexec⟩
  · obtain ⟨inv, f, -, -, rfl⟩ := fetchCur_next.mp hfetch
    exact .inl rfl
  · obtain ⟨inv, v, -, -, rfl⟩ := storeCur_next.mp hstore
    exact finishFrame_keepsPhaseOrEnds _
  · exact stage_keepsPhaseOrEnds (latchWritten_of_due (due_of_nextLine hline) hi) hexec

/-- Settles O54: by what the step did; a line of an invocation and PIXEL keep the phase or end the frame. -/
theorem phaseChangesOnlyByHandshake : Obligations.PhaseChangesOnlyByHandshake := by
  intro s t h hne
  cases step_cases h with
  | waits _ ht => exact absurd (by rw [ht]) hne
  | writes ms f _ hw =>
    obtain ⟨-, rfl⟩ := hostWrite_next.mp hw
    exact absurd rfl hne
  | starts screen ms hm hstart =>
    obtain ⟨hidle, -, rfl⟩ := frameStart_next.mp hstart
    exact .inl ⟨hidle, rfl, screen, ms, hm⟩
  | acks ms hm hack =>
    obtain ⟨hdone, rfl⟩ := frameAck_next.mp hack
    exact .inr (.inr (.inl ⟨hdone, rfl, ms, hm⟩))
  | reads y col ms hread =>
    obtain ⟨-, v, -, rfl⟩ := presentRead_next.mp hread
    exact absurd rfl hne
  | composites screen ms hm hframe =>
    obtain ⟨_, -, hstart, -⟩ := execFrame_started hframe
    exact .inr (.inr (.inr ⟨(frameStart_next.mp hstart).1, execFrame_done hframe, screen, ms, hm⟩))
  | runsPixel p ms hpixel =>
    obtain ⟨-, -, f, -, rfl⟩ := pixelAt_next.mp hpixel
    exact .inr (.inl ((finishFrame_keepsPhaseOrEnds _).resolve_left hne))
  | begins p ms hbegin =>
    obtain ⟨-, -, rfl⟩ := beginAt_next.mp hbegin
    exact absurd rfl hne
  | advances ms v hv hline =>
    have hends := selectLine_keepsPhaseOrEnds hline
    rw [KeepsPhaseOrEnds, resumes_phase hv] at hends
    exact .inr (.inl (hends.resolve_left hne))

end Sys2Proof.Machine

namespace Sys2Proof.Machine

/-! ## The operation a key selects -/

/-- The top substitution of R91 to R93, by the two bits of its key. -/
def substTopInstr (d az : Bool) : Instr := if d then if az then .subtFall else .subt3d else .subtKeep

/-- The bottom substitution of R94 to R96, by the two bits of its key. -/
def substBottomInstr (d az : Bool) : Instr := if d then if az then .subbBlack else .subb3d else .subbKeep

/-- The resolver's operation in the priority order of R103, by the bits of its key and the effect. -/
def resolveInstr (d a p m1 m2 : Bool) (e : Effect) : Instr :=
  if d && m2 then .resB3d
  else if a && m2 then if p then .resBpp else .resBgl
  else
    match e with
    | .none => if m2 then .resFxnoneM2 else .resFxnone
    | .alphaBlend => if m1 && m2 then .resFxalpha else if m2 then .resFxapassM2 else .resFxapass
    | .brightnessUp => if m2 then .resFxupM2 else .resFxup
    | .brightnessDown => if m2 then .resFxdownM2 else .resFxdown

/-- The brightness operation of R120, by the mode. -/
def brightnessInstr : MasterMode → Instr
  | .none => .mbNone
  | .up => .mbUp
  | .down => .mbDown

theorem decode_subkeyT_bits : ∀ d az : Bool, decode .subkeyT (keyBit d 1 ||| keyBit az 0) = .ok (substTopInstr d az) := by decide

theorem decode_subkeyB_bits : ∀ d az : Bool, decode .subkeyB (keyBit d 1 ||| keyBit az 0) = .ok (substBottomInstr d az) := by decide

theorem decode_reskey_bits (e : Effect) : ∀ d a p m1 m2 : Bool,
    decode .reskey (keyBit d 6 ||| keyBit a 5 ||| keyBit p 4 ||| keyBit m1 3 ||| keyBit m2 2 ||| e.code.setWidth 32)
      = .ok (resolveInstr d a p m1 m2 e) := by
  cases e <;> decide

theorem decode_mbKey (cf : CfgRec) : decode .mbkey (mbKey cf) = .ok (brightnessInstr cf.masterBrightnessMode) := by
  unfold mbKey
  cases cf.masterBrightnessMode <;> decide

/-! ## What the selected operation writes -/

/-- The top substitution that the key selects writes the colour R97 gives. -/
theorem exec_substTopInstr {s : State} {inv : Invocation} {lt lb : LayerPixel} {p3 : Pixel3D} (hcur : s.cur = some inv)
    (hlt : inv.latches.lt = some lt) (hlb : inv.latches.lb = some lb) (hp3 : inv.latches.p3 = some p3) :
    exec (substTopInstr lt.is3dSourced (alphaZero p3)) s = .next (withCur s inv (setSt (substituteTop lt lb p3) inv.latches)) := by
  unfold substTopInstr substituteTop alphaZero
  simp only [decide_eq_true_eq]
  split
  · split
    · rw [exec]; exact onLatches_ok hcur (by simp [hlb])
    · rw [exec]; exact onLatches_ok hcur (by simp [hp3])
  · rw [exec]; exact onLatches_ok hcur (by simp [hlt])

/-- The bottom substitution that the key selects writes the colour R97 gives. -/
theorem exec_substBottomInstr {s : State} {inv : Invocation} {lb : LayerPixel} {p3 : Pixel3D} (hcur : s.cur = some inv)
    (hlb : inv.latches.lb = some lb) (hp3 : inv.latches.p3 = some p3) :
    exec (substBottomInstr lb.is3dSourced (alphaZero p3)) s = .next (withCur s inv (setSb (substituteBottom lb p3) inv.latches)) := by
  unfold substBottomInstr substituteBottom alphaZero
  simp only [decide_eq_true_eq]
  split
  · split
    · rw [exec]; exact onLatches_ok hcur rfl
    · rw [exec]; exact onLatches_ok hcur (by simp [hp3])
  · rw [exec]; exact onLatches_ok hcur (by simp [hlb])

theorem passTop_ok {l : Latches} {st : Color} (hst : l.st = some st) : passTop l = .ok (setCc st l) := by
  simp [passTop, hst]

theorem blendGlobal_ok {l : Latches} {st sb : Color} {cf : CfgRec} (hst : l.st = some st) (hsb : l.sb = some sb)
    (hcf : l.cf = some cf) : blendGlobal l = .ok (setCc (globalBlend st sb cf) l) := by
  simp [blendGlobal, hst, hsb, hcf]

theorem brightenTop_ok {l : Latches} {st : Color} {cf : CfgRec} (hst : l.st = some st) (hcf : l.cf = some cf) :
    brightenTop l = .ok (setCc (fxUpColor st cf) l) := by
  simp [brightenTop, hst, hcf]

theorem darkenTop_ok {l : Latches} {st : Color} {cf : CfgRec} (hst : l.st = some st) (hcf : l.cf = some cf) :
    darkenTop l = .ok (setCc (fxDownColor st cf) l) := by
  simp [darkenTop, hst, hcf]

/-- The resolver's operation that the key selects writes the colour of the priority procedure (R103). -/
theorem exec_resolveInstr {s : State} {inv : Invocation} {lt lb : LayerPixel} {p3 : Pixel3D} {cf : CfgRec} {st sb : Color}
    (hcur : s.cur = some inv) (hlt : inv.latches.lt = some lt) (hp3 : inv.latches.p3 = some p3) (hcf : inv.latches.cf = some cf)
    (hst : inv.latches.st = some st) (hsb : inv.latches.sb = some sb) :
    exec (resolveInstr lt.is3dSourced lt.alphaBlendEnabled lt.usesPerPixelCoefficient (topInTarget1 lt cf) (bottomInTarget2 lb cf)
        cf.effectSelect) s
      = .next (withCur s inv (setCc (resolve st sb lt lb p3 cf) inv.latches)) := by
  have hpass := onLatches_ok hcur (passTop_ok hst)
  have hblend := onLatches_ok hcur (blendGlobal_ok hst hsb hcf)
  have hup := onLatches_ok hcur (brightenTop_ok hst hcf)
  have hdown := onLatches_ok hcur (darkenTop_ok hst hcf)
  unfold resolveInstr resolve
  split
  · rw [exec]; exact onLatches_ok hcur (by simp [hst, hsb, hp3])
  split
  · split
    · rw [exec]; exact onLatches_ok hcur (by simp [hst, hsb, hlt])
    · exact hblend
  cases cf.effectSelect with
  | none => dsimp only; split <;> exact hpass
  | alphaBlend =>
    dsimp only
    split
    · exact hblend
    · split <;> exact hpass
  | brightnessUp => dsimp only; split <;> exact hup
  | brightnessDown => dsimp only; split <;> exact hdown

/-- The brightness operation that the mode selects writes the element of R120. -/
theorem exec_brightnessInstr {s : State} {inv : Invocation} {cf : CfgRec} {cc : Color} (hcur : s.cur = some inv)
    (hcf : inv.latches.cf = some cf) (hcc : inv.latches.cc = some cc) :
    exec (brightnessInstr cf.masterBrightnessMode) s = .next (withCur s inv (setOc (masterBrightness cc cf) inv.latches)) := by
  unfold masterBrightness
  cases cf.masterBrightnessMode with
  | none => rw [brightnessInstr, exec]; exact onLatches_ok hcur (by simp [hcc])
  | up => rw [brightnessInstr, exec]; exact onLatches_ok hcur (by simp [hcc, hcf])
  | down => rw [brightnessInstr, exec]; exact onLatches_ok hcur (by simp [hcc, hcf])

theorem exec_decP3 {s : State} {inv : Invocation} {w : Word32} (hcur : s.cur = some inv) (hw : inv.latches.w3 = some w) :
    exec .decP3 s = .next (withCur s inv { inv.latches with p3 := some (decodeP3d w) }) :=
  onLatches_ok (f := decP3Latches) hcur (by simp [decP3Latches, hw])

/-! ## Latches that are true to the frame -/

/-- The latches with one of them taken from `full`. -/
def Latches.filled (l full : Latches) : LatchName → Latches
  | .wt => { l with wt := full.wt }
  | .wb => { l with wb := full.wb }
  | .w3 => { l with w3 := full.w3 }
  | .cf => { l with cf := full.cf }
  | .lt => { l with lt := full.lt }
  | .lb => { l with lb := full.lb }
  | .p3 => { l with p3 := full.p3 }
  | .st => { l with st := full.st }
  | .sb => { l with sb := full.sb }
  | .cc => { l with cc := full.cc }
  | .oc => { l with oc := full.oc }

theorem Latches.within.filled {l full : Latches} (h : l.within full) (n : LatchName) : (l.filled full n).within full := by
  obtain ⟨hwt, hwb, hw3, hcf, hlt, hlb, hp3, hst, hsb, hcc, hoc⟩ := h
  cases n <;> simp only [Latches.within, Latches.filled, hwt, hwb, hw3, hcf, hlt, hlb, hp3, hst, hsb, hcc, hoc, or_true, and_self]

theorem empty_within (full : Latches) : Latches.empty.within full := by simp [Latches.within]

/-- A latch that holds a value, and is empty or as in `full`, is as in `full`. -/
theorem eq_of_within {α : Type} {o full : Option α} {v : α} (h : o = none ∨ o = full) (hv : o = some v) : full = some v := by
  rcases h with h | h
  · rw [h] at hv
    cases hv
  · rw [← h, hv]

theorem latchFetched_within {L : Config.LayerLayout} {f : Fetched} {l : Latches} (h : l.within (fullLatches L f)) :
    (latchFetched l f).within (fullLatches L f) := by
  obtain ⟨-, -, -, -, hrest⟩ := h
  exact ⟨.inr rfl, .inr rfl, .inr rfl, .inr rfl, hrest⟩

/-- The seven latches that the operations of an invocation fill (R131). -/
def stageLatches : List LatchName := [.lt, .lb, .p3, .st, .sb, .cc, .oc]

/-- The operation that is due is selected, runs, and fills a latch that was empty as the frame's inputs determine. -/
theorem due_completes {L : Config.LayerLayout} {f : Fetched} {l : Latches} {k : KeyFormat} {w : BitVec 32}
    (hl : l.within (fullLatches L f)) (hdue : Due l k w) :
    ∃ i n, decode k w = .ok i ∧ n ∈ stageLatches ∧ l.holds n = false
      ∧ ∀ (s : State) (inv : Invocation), s.cur = some inv → inv.latches = l → s.layout = L →
        exec i s = .next (withCur s inv (l.filled (fullLatches L f) n)) := by
  obtain ⟨hwt', hwb', hw3', hcf', hlt', hlb', hp3', hst', hsb', hcc', -⟩ := hl
  cases hdue with
  | decLt hwt hlt =>
    cases eq_of_within hwt' hwt
    refine ⟨.decLt, .lt, decode_of_mem_decRows (row := ⟨.layerT, 0x0, 0x0, .decLt⟩) (by decide) _, by decide,
      by simp [Latches.holds, hlt], ?_⟩
    rintro s inv hcur rfl rfl
    exact exec_decLt hcur hwt
  | decLb hwb hlb =>
    cases eq_of_within hwb' hwb
    refine ⟨.decLb, .lb, decode_of_mem_decRows (row := ⟨.layerB, 0x0, 0x0, .decLb⟩) (by decide) _, by decide,
      by simp [Latches.holds, hlb], ?_⟩
    rintro s inv hcur rfl rfl
    exact exec_decLb hcur hwb
  | decP3 hw3 hp3 =>
    cases eq_of_within hw3' hw3
    refine ⟨.decP3, .p3, decode_of_mem_decRows (row := ⟨.p3d, 0x0, 0x0, .decP3⟩) (by decide) _, by decide,
      by simp [Latches.holds, hp3], ?_⟩
    rintro s inv hcur rfl -
    exact exec_decP3 hcur hw3
  | substTop hlt hlb hp3 hst =>
    cases eq_of_within hlt' hlt
    cases eq_of_within hlb' hlb
    cases eq_of_within hp3' hp3
    refine ⟨_, .st, decode_subkeyT_bits _ _, by decide, by simp [Latches.holds, hst], ?_⟩
    rintro s inv hcur rfl -
    exact exec_substTopInstr hcur hlt hlb hp3
  | substBottom hlb hp3 hsb =>
    cases eq_of_within hlb' hlb
    cases eq_of_within hp3' hp3
    refine ⟨_, .sb, decode_subkeyB_bits _ _, by decide, by simp [Latches.holds, hsb], ?_⟩
    rintro s inv hcur rfl -
    exact exec_substBottomInstr hcur hlb hp3
  | resolves hlt hlb hp3 hcf hst hsb hcc =>
    cases eq_of_within hlt' hlt
    cases eq_of_within hlb' hlb
    cases eq_of_within hp3' hp3
    cases eq_of_within hcf' hcf
    cases eq_of_within hst' hst
    cases eq_of_within hsb' hsb
    refine ⟨_, .cc, decode_reskey_bits _ _ _ _ _ _, by decide, by simp [Latches.holds, hcc], ?_⟩
    rintro s inv hcur rfl -
    exact exec_resolveInstr hcur hlt hp3 hcf hst hsb
  | brightness hcf hcc hoc =>
    cases eq_of_within hcf' hcf
    cases eq_of_within hcc' hcc
    refine ⟨_, .oc, decode_mbKey _, by decide, by simp [Latches.holds, hoc], ?_⟩
    rintro s inv hcur rfl -
    exact exec_brightnessInstr hcur hcf hcc

/-! ## A split invocation, line by line -/

/-- How many of the seven are still empty: the operations that are left. -/
def Latches.operationsLeft (l : Latches) : Nat := (stageLatches.map fun n => (!l.holds n).toNat).sum

/-- Filling one of the seven leaves one operation less. -/
theorem operationsLeft_filled {l full : Latches} {n : LatchName} (hn : n ∈ stageLatches) (hempty : l.holds n = false)
    (hfull : full.holds n = true) : l.operationsLeft = (l.filled full n).operationsLeft + 1 := by
  simp only [stageLatches, List.mem_cons, List.not_mem_nil, or_false] at hn
  simp only [Latches.operationsLeft, stageLatches, List.map_cons, List.map_nil, List.sum_cons, List.sum_nil]
  rcases hn with rfl | rfl | rfl | rfl | rfl | rfl | rfl <;>
  · simp only [Latches.holds] at hempty hfull
    simp only [Latches.filled, Latches.holds, hempty, hfull, Bool.not_true, Bool.not_false, Bool.toNat_true, Bool.toNat_false]
    omega

/-- The four latches of the fetch hold a value (R130). -/
def Latches.fetched (l : Latches) : Prop := l.wt.isSome ∧ l.wb.isSome ∧ l.w3.isSome ∧ l.cf.isSome

theorem Latches.fetched.filled {l full : Latches} {n : LatchName} (h : l.fetched) (hn : n ∈ stageLatches) :
    (l.filled full n).fetched := by
  simp only [stageLatches, List.mem_cons, List.not_mem_nil, or_false] at hn
  rcases hn with rfl | rfl | rfl | rfl | rfl | rfl | rfl <;> exact h

theorem nextLine_ne_fetch {l : Latches} (h : l.fetched) : nextLine l ≠ .fetch := by
  obtain ⟨hwt, hwb, hw3, hcf⟩ := h
  intro hline
  unfold nextLine at hline
  split at hline
  next =>
    split at hline
    next => cases hline
    next => cases hline
    next => cases hline
    next => split_ifs at hline
  next hnot =>
    obtain ⟨wt, hwt⟩ := Option.isSome_iff_exists.mp hwt
    obtain ⟨wb, hwb⟩ := Option.isSome_iff_exists.mp hwb
    obtain ⟨w3, hw3⟩ := Option.isSome_iff_exists.mp hw3
    obtain ⟨cf, hcf⟩ := Option.isSome_iff_exists.mp hcf
    exact hnot wt wb w3 cf hwt hwb hw3 hcf

/-- The store is due only when the seven are all held. -/
theorem holds_of_nextLine_store {l : Latches} (h : nextLine l = .store) : ∀ n ∈ stageLatches, l.holds n = true := by
  unfold nextLine at h
  split at h
  next =>
    split at h
    next => cases h
    next => cases h
    next => cases h
    next hlt hlb hp3 =>
      split_ifs at h with hst hsb hcc hoc
      simp only [Option.isNone_iff_eq_none, ← Option.isSome_iff_ne_none] at hst hsb hcc hoc
      simp [stageLatches, Latches.holds, hlt, hlb, hp3, hst, hsb, hcc, hoc]
  next => cases h

theorem operationsLeft_eq_zero {l : Latches} (h : ∀ n ∈ stageLatches, l.holds n = true) : l.operationsLeft = 0 :=
  List.sum_eq_zero fun k hk => by
    obtain ⟨n, hn, rfl⟩ := List.mem_map.mp hk
    rw [h n hn, Bool.not_true, Bool.toNat_false]

theorem fullLatches_holds (L : Config.LayerLayout) (f : Fetched) (n : LatchName) : (fullLatches L f).holds n = true := by
  cases n <;> rfl

/-- With no move pending, the current invocation of a frame in progress runs its next line. -/
theorem step_current {s : State} {inv : Invocation} (hrun : s.phase = .run) (hmoves : s.moves = []) (hcur : s.cur = some inv) :
    step s = runSelection (selectLine s) := by
  simp only [step, select, hmoves, selectOwn, hrun, hcur]

theorem selectLine_fetch {s : State} {inv : Invocation} (hcur : s.cur = some inv) (hline : nextLine inv.latches = .fetch) :
    runSelection (selectLine s) = fetchCur s := by
  simp only [selectLine, hcur, hline, runSelection]

/-- An operation line, the latches true to the frame, fills one of the seven as the frame's inputs determine. -/
theorem selectLine_operation {s : State} {inv : Invocation} {f : Fetched} {k : KeyFormat} {w : BitVec 32} (hcur : s.cur = some inv)
    (hl : inv.latches.within (fullLatches s.layout f)) (hline : nextLine inv.latches = .operation k w) :
    ∃ n ∈ stageLatches, inv.latches.holds n = false
      ∧ runSelection (selectLine s) = .next (withCur s inv (inv.latches.filled (fullLatches s.layout f) n)) := by
  obtain ⟨i, n, hi, hn, hempty, hexec⟩ := due_completes hl (due_of_nextLine hline)
  refine ⟨n, hn, hempty, ?_⟩
  simp only [selectLine, hcur, hline, hi, runSelection]
  exact hexec s inv hcur rfl rfl

/-- The store line, the latches true to the frame, stores `pixel` of what was fetched (R132, R133). -/
theorem selectLine_store {s : State} {inv : Invocation} {f : Fetched} (hcur : s.cur = some inv)
    (hl : inv.latches.within (fullLatches s.layout f)) (hline : nextLine inv.latches = .store) :
    runSelection (selectLine s)
      = .next (finishFrame { s with mem := storeAt s.mem inv.pos (pixelOf s.layout f), cur := none }) := by
  have hheld : inv.latches.oc.isSome := holds_of_nextLine_store hline .oc (by decide)
  obtain ⟨v, hv⟩ := Option.isSome_iff_exists.mp hheld
  obtain ⟨-, -, -, -, -, -, -, -, -, -, hoc⟩ := hl
  cases eq_of_within hoc hv
  simp only [selectLine, hcur, hline, runSelection]
  exact storeCur_next.mpr ⟨inv, _, hcur, hv, rfl⟩

/-- An invocation whose latches are true to the frame and hold what it fetched runs the operations that are left and stores
`pixel` of it (R131, R132). -/
theorem run_operations {f : Fetched} {k : Nat} : ∀ {s : State} {inv : Invocation}, s.phase = .run → s.moves = [] →
    s.cur = some inv → inv.latches.within (fullLatches s.layout f) → inv.latches.fetched → inv.latches.operationsLeft = k →
    Sys2Proof.core.run (k + 1) s
      = .next (finishFrame { s with mem := storeAt s.mem inv.pos (pixelOf s.layout f), cur := none }) := by
  induction k with
  | zero =>
    intro s inv hrun hmoves hcur hl hfetched hleft
    have hstep := step_current hrun hmoves hcur
    cases hline : nextLine inv.latches with
    | fetch => exact absurd hline (nextLine_ne_fetch hfetched)
    | operation k w =>
      obtain ⟨n, hn, hempty, -⟩ := selectLine_operation hcur hl hline
      rw [operationsLeft_filled hn hempty (fullLatches_holds s.layout f n)] at hleft
      cases hleft
    | store => exact run_succ (hstep.trans (selectLine_store hcur hl hline)) 0
  | succ k ih =>
    intro s inv hrun hmoves hcur hl hfetched hleft
    have hstep := step_current hrun hmoves hcur
    cases hline : nextLine inv.latches with
    | fetch => exact absurd hline (nextLine_ne_fetch hfetched)
    | operation k' w =>
      obtain ⟨n, hn, hempty, hsel⟩ := selectLine_operation hcur hl hline
      rw [operationsLeft_filled hn hempty (fullLatches_holds s.layout f n)] at hleft
      rw [run_succ (hstep.trans hsel)]
      exact ih (inv := { inv with latches := inv.latches.filled (fullLatches s.layout f) n }) hrun hmoves rfl (hl.filled n)
        (hfetched.filled hn) (Nat.succ.inj hleft)
    | store =>
      rw [operationsLeft_eq_zero (holds_of_nextLine_store hline)] at hleft
      cases hleft

/-- The nine steps of an invocation that has just begun: the fetch, the seven operations, and the store (R131). -/
theorem run_invocation {s : State} {p : Pos} {f : Fetched} (hrun : s.phase = .run) (hmoves : s.moves = [])
    (hcur : s.cur = some { pos := p, latches := Latches.empty }) (hf : fetchAt s.mem p = .ok f) :
    Sys2Proof.core.run 9 s = .next (finishFrame { s with mem := storeAt s.mem p (pixelOf s.layout f), cur := none }) := by
  have hfetch : step s = .next (withCur s { pos := p, latches := Latches.empty } (latchFetched Latches.empty f)) := by
    rw [step_current hrun hmoves hcur, selectLine_fetch hcur rfl]
    exact fetchCur_next.mpr ⟨_, f, hcur, hf, rfl⟩
  rw [run_succ hfetch]
  exact run_operations (inv := { pos := p, latches := latchFetched Latches.empty f }) hrun hmoves rfl
    (latchFetched_within (empty_within _)) ⟨rfl, rfl, rfl, rfl⟩ rfl

/-- Settles O46: the nine steps fetch what PIXEL fetches and store what it stores (`run_invocation`), at a position marked as begun
by either. -/
theorem splitInvocationEqualsPixel : Obligations.SplitInvocationEqualsPixel := by
  intro s t p hmoves hcur h
  obtain ⟨hrun, hfree, f, hf, rfl⟩ := pixelAt_next.mp ((execPixel_pos p s).symm.trans h)
  have hflight : inFlight s = s.waiting := by rw [inFlight, hcur]
  refine ⟨_, beginAt_next.mpr ⟨hrun, hfree, rfl⟩, ?_⟩
  refine (run_invocation (p := p) (f := f) ?_ ?_ ?_ ?_).trans ?_
  · exact hrun
  · exact hmoves
  · rfl
  · exact hf
  rw [hflight]
  cases s
  cases hcur
  rfl

end Sys2Proof.Machine

namespace Sys2Proof.Machine

/-! ## The invariant while a frame runs -/

/-- `FrameInv` of a state in Run, but for what it says of the end of the frame: a store may leave nothing to do, until the phase is
made Done (R34). -/
structure RunInv (s : State) : Prop where
  memory : s.mem.wf
  begunForm : bufWf Config.pixels s.started
  flightTrue : ∀ inv ∈ inFlight s, begun s inv.pos ∧ latchesTrue s.layout s.mem inv
  onePerPosition : (inFlight s).Pairwise (fun a b => a.pos ≠ b.pos)
  stored : ∀ p : Pos, begun s p → (∀ inv ∈ inFlight s, inv.pos ≠ p) →
    ∃ f : Fetched, inputsAt s.mem p f ∧ outAt s.mem p = some (pixelOf s.layout f)
  screenArgument : ∃ t : Screen, s.screen3d = some t ∧ no3dOffScreen s.layout t s.mem

theorem inFlight_of_cur {s : State} {inv : Invocation} (h : s.cur = some inv) : inFlight s = inv :: s.waiting := by
  rw [inFlight, h]

theorem inFlight_of_cur_none {s : State} (h : s.cur = none) : inFlight s = s.waiting := by
  rw [inFlight, h]

theorem inFlight_eq_nil {s : State} : inFlight s = [] ↔ s.cur = none ∧ s.waiting = [] := by
  unfold inFlight
  cases s.cur <;> simp

theorem FrameInv.runInv {s : State} (h : FrameInv s) (hrun : s.phase = .run) : RunInv s := by
  have hidle : s.phase ≠ .idle := by rw [hrun]; decide
  exact ⟨h.memory, h.begunForm, h.flightTrue, h.onePerPosition, h.stored hidle, h.screenArgument hidle⟩

theorem RunInv.frameInv {s : State} (h : RunInv s) (hrun : s.phase = .run)
    (hleft : ¬ (s.started.length = Config.pixels ∧ inFlight s = [])) : FrameInv s where
  memory := h.memory
  begunForm := h.begunForm
  noInvocation hne := absurd hrun hne
  flightTrue := h.flightTrue
  onePerPosition := h.onePerPosition
  stored _ := h.stored
  doneComplete hdone := by rw [hrun] at hdone; cases hdone
  runUnfinished _ := hleft
  screenArgument _ := h.screenArgument
  idleArgument hidle := by rw [hrun] at hidle; cases hidle

/-- The phase is made Done when nothing is left, and then every position has begun. -/
theorem RunInv.finishFrame {s : State} (h : RunInv s) (hrun : s.phase = .run) : FrameInv (finishFrame s) := by
  rcases finishFrame_eq s with ⟨heq, hleft⟩ | ⟨heq, -, hlen, hcur, hwait⟩
  · rw [heq]
    refine h.frameInv hrun fun ⟨hlen, hflight⟩ => ?_
    exact hleft ⟨hrun, hlen, inFlight_eq_nil.mp hflight⟩
  · rw [heq]
    exact
      { memory := h.memory
        begunForm := h.begunForm
        noInvocation := fun _ => ⟨hcur, hwait⟩
        flightTrue := h.flightTrue
        onePerPosition := h.onePerPosition
        stored := fun _ => h.stored
        doneComplete := fun _ => begun_of_length_eq h.begunForm hlen
        runUnfinished := fun hrun' => by cases hrun'
        screenArgument := fun _ => h.screenArgument
        idleArgument := fun hidle => by cases hidle }

/-- The order of the invocations in flight does not matter. -/
theorem RunInv.reorder {s : State} (h : RunInv s) {cur : Option Invocation} {waiting : List Invocation}
    (hperm : (inFlight { s with cur := cur, waiting := waiting }).Perm (inFlight s)) :
    RunInv { s with cur := cur, waiting := waiting } where
  memory := h.memory
  begunForm := h.begunForm
  flightTrue inv hinv := h.flightTrue inv (hperm.mem_iff.mp hinv)
  onePerPosition := (hperm.pairwise_iff fun hne => hne.symm).mpr h.onePerPosition
  stored p hp hnot := h.stored p hp fun inv hinv => hnot inv (hperm.mem_iff.mpr hinv)
  screenArgument := h.screenArgument

/-- The current invocation's latches may become any that are true to the frame. -/
theorem RunInv.withCur {s : State} {inv : Invocation} {l : Latches} (h : RunInv s) (hcur : s.cur = some inv)
    (hl : latchesTrue s.layout s.mem { inv with latches := l }) : RunInv (withCur s inv l) := by
  obtain ⟨hmemory, hbegun, hflight, hone, hstored, hscreen⟩ := h
  rw [inFlight_of_cur hcur] at hflight hone hstored
  rw [List.forall_mem_cons] at hflight
  refine ⟨hmemory, hbegun, ?_, ?_, fun p hp hnot => hstored p hp ?_, hscreen⟩
  · exact List.forall_mem_cons.mpr ⟨⟨hflight.1.1, hl⟩, hflight.2⟩
  · exact List.pairwise_cons.mpr (List.pairwise_cons.mp hone)
  · exact List.forall_mem_cons.mpr (List.forall_mem_cons.mp hnot)

theorem begun_markStarted {s : State} {p q : Pos} : begun (markStarted p s) q ↔ q = p ∨ begun s q := by
  unfold begun
  rw [markStarted_started, readBuf_writeBuf]
  split
  next h => simp [posIndex_injective h]
  next h =>
    have hne : q ≠ p := fun hqp => h (hqp ▸ rfl)
    simp [hne]

/-- A position that has not begun may begin: its latches are empty. -/
theorem RunInv.begin {s : State} {p : Pos} (h : RunInv s) (hfree : readBuf s.started (posIndex p) = none) :
    RunInv (markStarted p { s with cur := some { pos := p, latches := Latches.empty }, waiting := inFlight s }) where
  memory := h.memory
  begunForm := writeBuf_wf () h.begunForm (posIndex_lt p)
  flightTrue := List.forall_mem_cons.mpr ⟨⟨begun_markStarted.mpr (.inl rfl), .inl rfl⟩, fun inv hinv =>
    ⟨begun_markStarted.mpr (.inr (h.flightTrue inv hinv).1), (h.flightTrue inv hinv).2⟩⟩
  onePerPosition := by
    refine List.pairwise_cons.mpr ⟨fun inv hinv hpos => ?_, h.onePerPosition⟩
    have hbegun : begun s inv.pos := (h.flightTrue inv hinv).1
    rw [begun, ← hpos, hfree] at hbegun
    cases hbegun
  stored q hq hnot := by
    obtain ⟨hqp, hnot⟩ := List.forall_mem_cons.mp hnot
    exact h.stored q ((begun_markStarted.mp hq).resolve_left fun h => hqp h.symm) hnot
  screenArgument := h.screenArgument

theorem outAt_storeAt (m : Memory) (p q : Pos) (v : OutEl) : outAt (storeAt m p v) q = if q = p then some v else outAt m q := by
  have hindex : ∀ r : Pos, (192 * r.screen.val + r.row.val) * 256 + r.col.val = posIndex r := outIndex_eq
  rw [outAt, outAt, storeAt_out, outIndex_eq, hindex, readBuf_writeBuf]
  split
  next h => rw [if_pos (posIndex_injective h)]
  next h => rw [if_neg fun hqp => h (by rw [hqp])]

/-- The current invocation may end by storing `pixel` of its inputs (R132, R134). -/
theorem RunInv.store {s : State} {inv : Invocation} {f : Fetched} (h : RunInv s) (hcur : s.cur = some inv)
    (hf : fetchAt s.mem inv.pos = .ok f) :
    RunInv { s with mem := storeAt s.mem inv.pos (pixelOf s.layout f), cur := none } := by
  obtain ⟨hmemory, hbegun, hflight, hone, hstored, hscreen⟩ := h
  rw [inFlight_of_cur hcur] at hflight hone hstored
  refine ⟨storeAt_wf hmemory _ _, hbegun, (List.forall_mem_cons.mp hflight).2, (List.pairwise_cons.mp hone).2, fun p hp hnot => ?_,
    hscreen⟩
  rw [outAt_storeAt]
  split
  next heq =>
    subst heq
    exact ⟨f, fetchAt_ok.mp hf, rfl⟩
  next hne => exact hstored p hp (List.forall_mem_cons.mpr ⟨fun heq => hne heq.symm, hnot⟩)

/-- PIXEL is an invocation that begins and ends at once, whichever are in flight. -/
theorem RunInv.pixel {s : State} {p : Pos} {f : Fetched} (h : RunInv s) (hfree : readBuf s.started (posIndex p) = none)
    (hf : fetchAt s.mem p = .ok f) : RunInv { markStarted p s with mem := storeAt s.mem p (pixelOf s.layout f) } :=
  ((h.begin hfree).store rfl hf).reorder (cur := s.cur) (waiting := s.waiting) (List.Perm.refl _)

/-! ## Every step keeps the invariant -/

theorem frameInv_of_idle {s : State} (hidle : s.phase = .idle) (hmemory : s.mem.wf) (hbegun : bufWf Config.pixels s.started)
    (hcur : s.cur = none) (hwait : s.waiting = []) (hscreen : s.screen3d = none) : FrameInv s := by
  have hflight : inFlight s = [] := inFlight_eq_nil.mpr ⟨hcur, hwait⟩
  exact
    { memory := hmemory
      begunForm := hbegun
      noInvocation := fun _ => ⟨hcur, hwait⟩
      flightTrue := by simp [hflight]
      onePerPosition := by simp [hflight]
      stored := fun hne => absurd hidle hne
      doneComplete := fun hdone => by rw [hidle] at hdone; cases hdone
      runUnfinished := fun hrun => by rw [hidle] at hrun; cases hrun
      screenArgument := fun hne => absurd hidle hne
      idleArgument := fun _ => hscreen }

/-- The moves to come and what PRESENT has read play no part in the invariant. -/
theorem FrameInv.withMoves {s : State} (h : FrameInv s) (ms : List Move) (v : Option OutEl) :
    FrameInv { s with moves := ms, shown := v } :=
  ⟨h.memory, h.begunForm, h.noInvocation, h.flightTrue, h.onePerPosition, h.stored, h.doneComplete, h.runUnfinished, h.screenArgument,
    h.idleArgument⟩

theorem hostWrite_frameInv {g : Memory → Memory} {s t : State} (hg : ∀ m : Memory, m.wf → (g m).wf) (hs : FrameInv s)
    (h : hostWrite g s = .next t) : FrameInv t := by
  obtain ⟨hidle, rfl⟩ := hostWrite_next.mp h
  obtain ⟨hcur, hwait⟩ := hs.noInvocation (by rw [hidle]; decide)
  exact frameInv_of_idle hidle (hg _ hs.memory) hs.begunForm hcur hwait (hs.idleArgument hidle)

theorem frameStart_frameInv {screen : Screen} {s t : State} (hs : FrameInv s) (h : frameStart screen s = .next t) : FrameInv t := by
  obtain ⟨hidle, hslot, rfl⟩ := frameStart_next.mp h
  have hrun : RunInv (startedFrame screen s) :=
    { memory := hs.memory
      begunForm := ⟨List.Pairwise.nil, fun e he => by cases he⟩
      flightTrue := fun inv hinv => by cases hinv
      onePerPosition := List.Pairwise.nil
      stored := fun p hp => by cases hp
      screenArgument := ⟨screen, rfl, hslot⟩ }
  exact hrun.frameInv rfl fun ⟨hlen, _⟩ => by simp [startedFrame, Config.pixels] at hlen

theorem frameAck_frameInv {s t : State} (hs : FrameInv s) (h : frameAck s = .next t) : FrameInv t := by
  obtain ⟨hdone, rfl⟩ := frameAck_next.mp h
  obtain ⟨hcur, hwait⟩ := hs.noInvocation (by rw [hdone]; decide)
  exact frameInv_of_idle rfl hs.memory hs.begunForm hcur hwait rfl

theorem presentRead_frameInv {y : Fin 384} {col : Col} {s t : State} (hs : FrameInv s) (h : presentRead y col s = .next t) :
    FrameInv t := by
  obtain ⟨-, v, -, rfl⟩ := presentRead_next.mp h
  exact hs.withMoves s.moves (some v)

theorem pixelAt_frameInv {p : Pos} {s t : State} (hs : FrameInv s) (h : pixelAt p s = .next t) : FrameInv t := by
  obtain ⟨hrun, hfree, f, hf, rfl⟩ := pixelAt_next.mp h
  exact ((hs.runInv hrun).pixel hfree hf).finishFrame hrun

theorem pixelsFrom_frameInv {k : Nat} : ∀ {i : Nat} {s t : State}, FrameInv s → pixelsFrom k i s = .next t → FrameInv t := by
  induction k with
  | zero =>
    intro i s t hs h
    cases h
    exact hs
  | succ k ih =>
    intro i s t hs h
    obtain ⟨p, u, -, hpixel, hrest⟩ := pixelsFrom_succ_next h
    exact ih (pixelAt_frameInv hs hpixel) hrest

theorem execFrame_frameInv {n : Nat} {s t : State} (hs : FrameInv s) (h : execFrame n s = .next t) : FrameInv t := by
  obtain ⟨screen, -, hstart, hpixels⟩ := execFrame_started h
  exact pixelsFrom_frameInv (frameStart_frameInv hs hstart) hpixels

theorem beginAt_frameInv {p : Pos} {s t : State} (hs : FrameInv s) (h : beginAt p s = .next t) : FrameInv t := by
  obtain ⟨hrun, hfree, rfl⟩ := beginAt_next.mp h
  exact ((hs.runInv hrun).begin hfree).frameInv hrun fun ⟨_, hflight⟩ => by cases hflight

/-- The named invocation at the head and the others behind it are the same invocations. -/
theorem selected_perm {l : List Invocation} {inv : Invocation} (hone : l.Pairwise (fun a b => a.pos ≠ b.pos)) (hinv : inv ∈ l) :
    (inv :: l.filter (fun other => decide (other.pos ≠ inv.pos))).Perm l := by
  have hpos : (l.map Invocation.pos).Nodup := List.pairwise_map.mpr hone
  have hl : l.Nodup := List.Nodup.of_map _ hpos
  refine (List.perm_ext_iff_of_nodup ?_ hl).mpr fun other => ?_
  · exact List.nodup_cons.mpr ⟨by simp, hl.filter _⟩
  · rw [List.mem_cons, List.mem_filter, decide_eq_true_eq]
    constructor
    · rintro (rfl | ⟨hother, -⟩)
      · exact hinv
      · exact hother
    · intro hother
      by_cases heq : other.pos = inv.pos
      · exact .inl (List.inj_on_of_nodup_map hpos hother hinv heq)
      · exact .inr ⟨hother, heq⟩

theorem RunInv.resumes {s v : State} (h : RunInv s) (hv : Resumes s v) : RunInv v := by
  cases hv with
  | current => exact h
  | waiting inv rest hcur hwait =>
    refine h.reorder ?_
    rw [inFlight_of_cur_none hcur, hwait]
    exact List.Perm.refl _
  | named p v hv =>
    obtain ⟨inv, hinv, rfl, rfl⟩ := selectAt_some hv
    exact h.reorder (selected_perm h.onePerPosition hinv)

/-- The invocation that goes on is one of those in flight. -/
theorem resumes_mem {s v : State} {inv : Invocation} (hv : Resumes s v) (hcur : v.cur = some inv) : inv ∈ inFlight s := by
  cases hv with
  | current => exact inFlight_of_cur hcur ▸ List.mem_cons_self
  | waiting inv' rest hnone hwait =>
    cases hcur
    rw [inFlight_of_cur_none hnone, hwait]
    exact List.mem_cons_self
  | named p v hv =>
    obtain ⟨inv', hinv, -, rfl⟩ := selectAt_some hv
    cases hcur
    exact hinv

/-- A line runs only for a current invocation. -/
theorem cur_of_selectLine {s t : State} (h : runSelection (selectLine s) = .next t) : ∃ inv, s.cur = some inv := by
  cases hcur : s.cur with
  | none =>
    rw [selectLine, hcur] at h
    cases h
  | some inv => exact ⟨inv, rfl⟩

/-- Latches that are true to the frame and past the fetch are as the fetched inputs determine. -/
theorem within_of_latchesTrue {L : Config.LayerLayout} {m : Memory} {inv : Invocation} (h : latchesTrue L m inv)
    (hline : nextLine inv.latches ≠ .fetch) : ∃ f, fetchAt m inv.pos = .ok f ∧ inv.latches.within (fullLatches L f) := by
  refine h.resolve_left fun hempty => hline ?_
  rw [hempty]
  rfl

/-- The fetch leaves the latches true to the frame: a second fetch would read what the first did. -/
theorem latchesTrue_latchFetched {L : Config.LayerLayout} {m : Memory} {inv : Invocation} {f : Fetched} (h : latchesTrue L m inv)
    (hf : fetchAt m inv.pos = .ok f) : latchesTrue L m { inv with latches := latchFetched inv.latches f } := by
  refine .inr ⟨f, hf, latchFetched_within ?_⟩
  rcases h with hempty | ⟨f', hf', hl⟩
  · rw [hempty]
    exact empty_within _
  · cases hf.symm.trans hf'
    exact hl

/-- A line of the current invocation keeps the invariant. -/
theorem selectLine_frameInv {s t : State} (hs : RunInv s) (hrun : s.phase = .run) (h : runSelection (selectLine s) = .next t) :
    FrameInv t := by
  obtain ⟨inv, hcur⟩ := cur_of_selectLine h
  obtain ⟨-, htrue⟩ := hs.flightTrue inv (inFlight_of_cur hcur ▸ List.mem_cons_self)
  cases hline : nextLine inv.latches with
  | fetch =>
    rw [selectLine_fetch hcur hline] at h
    obtain ⟨inv', f, hcur', hf, rfl⟩ := fetchCur_next.mp h
    cases hcur.symm.trans hcur'
    have hnew := hs.withCur hcur (latchesTrue_latchFetched htrue hf)
    exact hnew.frameInv hrun fun ⟨_, hflight⟩ => by cases hflight
  | operation k w =>
    obtain ⟨f, hf, hl⟩ := within_of_latchesTrue htrue (by rw [hline]; simp)
    obtain ⟨n, -, -, hsel⟩ := selectLine_operation hcur hl hline
    cases h.symm.trans hsel
    have hnew := hs.withCur (l := inv.latches.filled (fullLatches s.layout f) n) hcur (.inr ⟨f, hf, hl.filled n⟩)
    exact hnew.frameInv hrun fun ⟨_, hflight⟩ => by cases hflight
  | store =>
    obtain ⟨f, hf, hl⟩ := within_of_latchesTrue htrue (by rw [hline]; simp)
    cases h.symm.trans (selectLine_store hcur hl hline)
    exact (hs.store hcur hf).finishFrame hrun

/-- A line of an invocation in flight keeps the invariant: there are such only while Run. -/
theorem advance_frameInv {s v t : State} (hs : FrameInv s) (hv : Resumes s v) (h : runSelection (selectLine v) = .next t) :
    FrameInv t := by
  obtain ⟨inv, hcur⟩ := cur_of_selectLine h
  have hrun : s.phase = .run := by
    by_contra hne
    have hmem := resumes_mem hv hcur
    rw [inFlight_eq_nil.mpr (hs.noInvocation hne)] at hmem
    cases hmem
  exact selectLine_frameInv ((hs.runInv hrun).resumes hv) ((resumes_phase hv).trans hrun) h

/-- Settles O50: by what the step did, each with its own lemma; while a frame runs the invariant is `RunInv`. -/
theorem stepKeepsFrameInv : Obligations.StepKeepsFrameInv := by
  intro s t hs h
  cases step_cases h with
  | waits _ ht => exact ht ▸ hs
  | writes ms f hf hw => exact hostWrite_frameInv hf (hs.withMoves ms s.shown) hw
  | starts screen ms _ hstart => exact frameStart_frameInv (hs.withMoves ms s.shown) hstart
  | acks ms _ hack => exact frameAck_frameInv (hs.withMoves ms s.shown) hack
  | reads y col ms hread => exact presentRead_frameInv (hs.withMoves ms s.shown) hread
  | composites screen ms _ hframe => exact execFrame_frameInv (hs.withMoves ms s.shown) hframe
  | runsPixel p ms hpixel => exact pixelAt_frameInv (hs.withMoves ms s.shown) hpixel
  | begins p ms hbegin => exact beginAt_frameInv (hs.withMoves ms s.shown) hbegin
  | advances ms v hv hline => exact advance_frameInv (hs.withMoves ms s.shown) hv hline

end Sys2Proof.Machine

/-! PROOFS. The buffers (R40 to R48): what a step may do to them in each phase, and where a host write lands. -/

namespace Sys2Proof

/-! ## Records as numeric codes -/

theorem Effect.ofCode_code (e : Effect) : Effect.ofCode e.code = e := by cases e <;> rfl

theorem MasterMode.ofCode_code (mode : MasterMode) : MasterMode.ofCode mode.code = some mode := by cases mode <;> rfl

/-- A record presented by its codes is read back (R66, D7). -/
theorem decodeCfg_encodeCfg (c : CfgRec) : decodeCfg (encodeCfg c) = some c := by
  simp only [decodeCfg, encodeCfg, MasterMode.ofCode_code, Effect.ofCode_code]

namespace Machine

/-! ## What a step does to the buffers -/

/-- One element of `OUT` is stored (R46). -/
def StoresElement (m n : Memory) : Prop := ∃ (p : Pos) (v : OutEl), n = storeAt m p v

/-- Elements of `OUT` are stored, one after the other, none or more; nothing else is written. -/
abbrev StoresOutput : Memory → Memory → Prop := Relation.ReflTransGen StoresElement

theorem StoresOutput.wf {m n : Memory} (h : StoresOutput m n) (hm : m.wf) : n.wf := by
  induction h with
  | refl => exact hm
  | tail _ hstore ih =>
    obtain ⟨p, v, rfl⟩ := hstore
    exact storeAt_wf ih p v

theorem StoresOutput.sameInputs {m n : Memory} (h : StoresOutput m n) : sameInputs n m := by
  induction h with
  | refl => exact ⟨rfl, rfl, rfl, rfl⟩
  | tail _ hstore ih =>
    obtain ⟨p, v, rfl⟩ := hstore
    exact ih

theorem storesOutput_storeAt (m : Memory) (p : Pos) (v : OutEl) : StoresOutput m (storeAt m p v) := .single ⟨p, v, rfl⟩

theorem storesOutput_of_eq {m n : Memory} (h : n = m) : StoresOutput m n := h ▸ .refl

theorem pixelAt_storesOutput {p : Pos} {s t : State} (h : pixelAt p s = .next t) : StoresOutput s.mem t.mem := by
  obtain ⟨-, -, f, -, rfl⟩ := pixelAt_next.mp h
  rw [finishFrame_mem]
  exact storesOutput_storeAt s.mem p _

theorem pixelsFrom_storesOutput {k : Nat} : ∀ {i : Nat} {s t : State}, pixelsFrom k i s = .next t → StoresOutput s.mem t.mem := by
  induction k with
  | zero =>
    intro i s t h
    cases h
    exact .refl
  | succ k ih =>
    intro i s t h
    obtain ⟨p, u, -, hpixel, hrest⟩ := pixelsFrom_succ_next h
    exact (pixelAt_storesOutput hpixel).trans (ih hrest)

theorem execFrame_storesOutput {n : Nat} {s t : State} (h : execFrame n s = .next t) : StoresOutput s.mem t.mem := by
  obtain ⟨screen, -, -, hpixels⟩ := execFrame_started h
  have hstores := pixelsFrom_storesOutput hpixels
  exact hstores

/-- A stage operation writes no buffer (R26). -/
theorem stage_mem {i : Instr} {s t : State} (hi : (latchWritten i).isSome) (h : exec i s = .next t) : t.mem = s.mem := by
  obtain ⟨f, -, hexec⟩ := exec_stage hi s
  obtain ⟨inv, l, -, -, rfl⟩ := onLatches_next.mp (hexec.symm.trans h)
  rfl

/-- A line of an invocation stores an element of `OUT` or writes no buffer (R131). -/
theorem selectLine_storesOutput {s t : State} (h : runSelection (selectLine s) = .next t) : StoresOutput s.mem t.mem := by
  rcases selectLine_cases h with hfetch | hstore | ⟨inv, k, w, i, -, hline, hi, hexec⟩
  · obtain ⟨inv, f, -, -, rfl⟩ := fetchCur_next.mp hfetch
    exact .refl
  · obtain ⟨inv, v, -, -, rfl⟩ := storeCur_next.mp hstore
    rw [finishFrame_mem]
    exact storesOutput_storeAt s.mem inv.pos v
  · exact storesOutput_of_eq (stage_mem (latchWritten_of_due (due_of_nextLine hline) hi) hexec)

theorem resumes_mem_eq {s v : State} (h : Resumes s v) : v.mem = s.mem := by
  cases h with
  | current => rfl
  | waiting => rfl
  | named p v hv =>
    obtain ⟨inv, -, -, rfl⟩ := selectAt_some hv
    rfl

/-- Whatever a step does, either the host wrote the inputs, which it may only while Idle, or the step stored elements of `OUT`
(R45 to R48). -/
theorem step_hostWrote_or_storesOutput {s t : State} (h : step s = .next t) :
    (∃ f : Memory → Memory, (∀ m : Memory, m.wf → (f m).wf) ∧ s.phase = .idle ∧ t.mem = f s.mem) ∨ StoresOutput s.mem t.mem := by
  cases step_cases h with
  | waits _ ht => exact .inr (storesOutput_of_eq (by rw [ht]))
  | writes ms f hf hw =>
    obtain ⟨hidle, rfl⟩ := hostWrite_next.mp hw
    exact .inl ⟨f, hf, hidle, rfl⟩
  | starts screen ms _ hstart =>
    obtain ⟨-, -, rfl⟩ := frameStart_next.mp hstart
    exact .inr .refl
  | acks ms _ hack =>
    obtain ⟨-, rfl⟩ := frameAck_next.mp hack
    exact .inr .refl
  | reads y col ms hread =>
    obtain ⟨-, v, -, rfl⟩ := presentRead_next.mp hread
    exact .inr .refl
  | composites screen ms _ hframe =>
    have hstores := execFrame_storesOutput hframe
    exact .inr hstores
  | runsPixel p ms hpixel =>
    have hstores := pixelAt_storesOutput hpixel
    exact .inr hstores
  | begins p ms hbegin =>
    obtain ⟨-, -, rfl⟩ := beginAt_next.mp hbegin
    exact .inr .refl
  | advances ms v hv hline =>
    have hstores := selectLine_storesOutput hline
    rw [resumes_mem_eq hv] at hstores
    exact .inr hstores

/-- Settles O51: a host write keeps the form, and so does each element stored in `OUT` (`step_hostWrote_or_storesOutput`). -/
theorem stepKeepsMemoryCanonical : Obligations.StepKeepsMemoryCanonical := by
  intro s t hs h
  rcases step_hostWrote_or_storesOutput h with ⟨f, hf, -, hmem⟩ | hstores
  · exact hmem ▸ hf s.mem hs
  · exact hstores.wf hs

/-- A line of an invocation runs only while Run: outside it none is in flight. -/
theorem phase_run_of_advances {s v t : State} (hs : FrameInv s) (hv : Resumes s v) (h : runSelection (selectLine v) = .next t) :
    s.phase = .run := by
  by_contra hne
  obtain ⟨inv, hcur⟩ := cur_of_selectLine h
  have hflight := resumes_mem hv hcur
  rw [inFlight_eq_nil.mpr (hs.noInvocation hne)] at hflight
  cases hflight

/-- At Done a step writes no buffer: it waits, acknowledges or reads `OUT`, and every other kind is of another phase (R166). -/
theorem step_mem_of_done {s t : State} (hs : FrameInv s) (h : step s = .next t) (hdone : s.phase = .done) : t.mem = s.mem := by
  have hidle : s.phase ≠ .idle := by rw [hdone]; decide
  have hrun : s.phase ≠ .run := by rw [hdone]; decide
  cases step_cases h with
  | waits _ ht => rw [ht]
  | acks ms _ hack =>
    obtain ⟨-, rfl⟩ := frameAck_next.mp hack
    rfl
  | reads y col ms hread =>
    obtain ⟨-, v, -, rfl⟩ := presentRead_next.mp hread
    rfl
  | writes ms f _ hw => exact absurd (hostWrite_next.mp hw).1 hidle
  | starts screen ms _ hstart => exact absurd (frameStart_next.mp hstart).1 hidle
  | composites screen ms _ hframe =>
    obtain ⟨_, -, hstart, -⟩ := execFrame_started hframe
    exact absurd (frameStart_next.mp hstart).1 hidle
  | runsPixel p ms hpixel => exact absurd (pixelAt_next.mp hpixel).1 hrun
  | begins p ms hbegin => exact absurd (beginAt_next.mp hbegin).1 hrun
  | advances ms v hv hline => exact absurd (phase_run_of_advances (hs.withMoves ms s.shown) hv hline) hrun

/-- Settles O55: outside Idle a step can only store in `OUT` (`step_hostWrote_or_storesOutput`), and at Done not even that
(`step_mem_of_done`). -/
theorem buffersFrozenOutsideTheirPhase : Obligations.BuffersFrozenOutsideTheirPhase := by
  refine ⟨fun s t h hphase => ?_, fun s t => step_mem_of_done⟩
  rcases step_hostWrote_or_storesOutput h with ⟨f, -, hidle, -⟩ | hstores
  · exact absurd hidle hphase
  · exact hstores.sameInputs

/-! ## Where a host write lands -/

/-- A record presented by its codes is written as the record itself (R66). -/
theorem writeCfgCodes_encodeCfg (screen : Screen) (row : Row) (c : CfgRec) (s : State) :
    writeCfgCodes screen row (encodeCfg c) s = hostWrite (writeCfg screen row c) s := by
  rw [writeCfgCodes, decodeCfg_encodeCfg]

/-- Settles O57: while Idle a host write is the write of one element (`hostWrite_next`), and a read after it finds that element at
its index and the old ones elsewhere; the index of a 3D element holds no screen, so either position fetches it. -/
theorem hostWritesLand : Obligations.HostWritesLand := by
  intro s ms hidle
  have hwrite (f : Memory → Memory) : hostWrite f { s with moves := ms } = .next { s with moves := ms, mem := f s.mem } :=
    hostWrite_next.mpr ⟨hidle, rfl⟩
  refine ⟨fun p w => ?_, fun p w => ?_, fun row col w => ?_, fun screen row c => ?_⟩
  · exact ⟨_, hwrite (writeTop p w), fun a => readBuf_writeBuf s.mem.top (posIndex p) a w⟩
  · exact ⟨_, hwrite (writeBot p w), fun a => readBuf_writeBuf s.mem.bot (posIndex p) a w⟩
  · refine ⟨_, hwrite (writeG3d row col w), fun a => readBuf_writeBuf s.mem.g3d (g3dIndex row col) a w, ?_⟩
    rintro screen f ⟨-, -, hw3, -⟩
    exact Option.some.inj (hw3.symm.trans (readBuf_writeBuf_same s.mem.g3d (g3dIndex row col) w))
  · exact ⟨_, hwrite (writeCfg screen row c), (writeCfgCodes_encodeCfg screen row c _).trans (hwrite (writeCfg screen row c)),
      fun a => readBuf_writeBuf s.mem.cfg (cfgIndex screen row) a c⟩

end Machine
end Sys2Proof

/-! PROOFS. The encoding (R60 to R73, R86): the packed words and records, the rows a key selects, and which bits of the words the output
depends on; then the frame those words make up (R134, R144) and the operation a step selects (R131). -/

namespace Sys2Proof

/-! ## Words, keys and records -/

/-- Settles O4: the round trip of the layer word, field by field (`decodeLayer_encodeLayer`). -/
theorem layerRoundTripAnyLayout : Obligations.LayerRoundTripAnyLayout := fun _ px hL => decodeLayer_encodeLayer hL px

/-- Settles O1: the seven words are literals, so each is decoded by evaluation. -/
theorem specWordsDecode : Obligations.SpecWordsDecode := by
  unfold Obligations.SpecWordsDecode
  decide

/-- Settles O2: by counting the rows at each of the 128 + 4 + 4 + 4 keys. -/
theorem eachKeyTakesOneRow : Obligations.EachKeyTakesOneRow := ⟨by decide, by decide, by decide, by decide⟩

theorem Effect.code_ofCode : ∀ c : BitVec 2, (Effect.ofCode c).code = c := by decide

/-- A mode code names no mode exactly when it is 3 (R73, D7). -/
theorem MasterMode.ofCode_eq_none : ∀ c : BitVec 2, MasterMode.ofCode c = Option.none ↔ c = 3 := by decide

theorem MasterMode.code_of_ofCode : ∀ (c : BitVec 2) (mode : MasterMode), MasterMode.ofCode c = some mode → mode.code = c := by
  intro c mode
  cases mode <;> revert c <;> decide

theorem decodeCfg_eq_none {c : CfgCodes} : decodeCfg c = none ↔ MasterMode.ofCode c.masterBrightnessMode = none := by
  unfold decodeCfg
  split <;> simp [*]

theorem encodeCfg_of_decodeCfg {c : CfgCodes} {rec : CfgRec} (h : decodeCfg c = some rec) : encodeCfg rec = c := by
  unfold decodeCfg at h
  split at h
  next => cases h
  next mode hmode =>
    cases h
    simp only [encodeCfg, MasterMode.code_of_ofCode _ mode hmode, Effect.code_ofCode]

/-- Settles O7: the codes of both enumerations read back in both directions, but for the mode code 3. -/
theorem packedRecordRoundTrip : Obligations.PackedRecordRoundTrip :=
  ⟨decodeCfg_encodeCfg, fun _ => decodeCfg_eq_none.trans (MasterMode.ofCode_eq_none _), fun _ _ => encodeCfg_of_decodeCfg⟩

/-! ## The bits a decoded word depends on -/

/-- A field depends on its own bits only. -/
theorem extractLsb'_congr {n pos width : Nat} {w w' : BitVec n}
    (h : ∀ b, pos ≤ b → b < pos + width → w.getLsbD b = w'.getLsbD b) : w.extractLsb' pos width = w'.extractLsb' pos width := by
  apply BitVec.eq_of_getLsbD_eq
  intro i hi
  rw [BitVec.getLsbD_extractLsb', BitVec.getLsbD_extractLsb', h (pos + i) (by omega) (by omega)]

/-- Words that agree under a mask agree in each bit of the mask. -/
theorem getLsbD_eq_of_and_eq {w w' mask : Word32} {P : Nat → Prop} (h : w &&& mask = w' &&& mask)
    (hmask : ∀ b, b < 32 → P b → mask.getLsbD b = true) : ∀ b, P b → w.getLsbD b = w'.getLsbD b := by
  intro b hb
  by_cases hlt : b < 32
  · have hbit := congrArg (fun v => v.getLsbD b) h
    simpa [hmask b hlt hb] using hbit
  · rw [BitVec.getLsbD_of_ge _ _ (by omega), BitVec.getLsbD_of_ge _ _ (by omega)]

theorem decodeColor_congr {w w' : Word32} (h : ∀ b, b < 18 → w.getLsbD b = w'.getLsbD b) : decodeColor w = decodeColor w' := by
  simp only [decodeColor, RawColor.mk.injEq]
  exact ⟨extractLsb'_congr fun b _ hb => h b (by omega), extractLsb'_congr fun b _ hb => h b (by omega),
    extractLsb'_congr fun b _ hb => h b (by omega)⟩

/-- Bits 31:23 of a 3D word are ignored (R64, D6). -/
theorem decodeP3d_congr {w w' : Word32} (h : ∀ b, b < 23 → w.getLsbD b = w'.getLsbD b) : decodeP3d w = decodeP3d w' := by
  simp only [decodeP3d, Pixel3D.mk.injEq]
  exact ⟨decodeColor_congr fun b hb => h b (by omega), extractLsb'_congr fun b _ hb => h b (by omega)⟩

/-- The bits of all fields but the coefficient decide the pixel up to its coefficient. -/
theorem decodeLayer_congr_upTo_coefficient {L : Config.LayerLayout} {w w' : Word32}
    (h : ∀ b, b < 18 ∨ b = L.d ∨ b = L.a ∨ b = L.p ∨ L.m ≤ b ∧ b < L.m + 6 → w.getLsbD b = w'.getLsbD b) :
    decodeLayer L w' = { decodeLayer L w with perPixelCoefficient := w'.extractLsb' L.k 4 } := by
  have hcolor := decodeColor_congr fun b hb => h b (.inl hb)
  have hmask : w.extractLsb' L.m 6 = w'.extractLsb' L.m 6 := extractLsb'_congr fun b hlo hhi => h b (by omega)
  simp only [decodeLayer, hcolor, hmask, h L.d (by omega), h L.a (by omega), h L.p (by omega)]

namespace Machine

/-! ## What the output depends on -/

/-- The stages after the decoder, on decoded pixels (R133). -/
def composite (lt lb : LayerPixel) (p3 : Pixel3D) (cf : CfgRec) : OutEl :=
  masterBrightness (resolve (substituteTop lt lb p3) (substituteBottom lb p3) lt lb p3 cf) cf

theorem pixel_eq_composite (L : Config.LayerLayout) (wt wb w3 : Word32) (cf : CfgRec) :
    pixel L wt wb w3 cf = composite (decodeLayer L wt) (decodeLayer L wb) (decodeP3d w3) cf := rfl

/-- Of the bottom pixel the stages read the colour, the 3D flag and the mask only (R63). -/
theorem composite_congr_bottom {lt lb lb' : LayerPixel} {p3 : Pixel3D} {cf : CfgRec} (hcolor : lb.color = lb'.color)
    (hd : lb.is3dSourced = lb'.is3dSourced) (hm : lb.targetMask = lb'.targetMask) : composite lt lb p3 cf = composite lt lb' p3 cf := by
  have hst : substituteTop lt lb p3 = substituteTop lt lb' p3 := by simp only [substituteTop, subtFallColor, hcolor]
  have hsb : substituteBottom lb p3 = substituteBottom lb' p3 := by simp only [substituteBottom, subbKeepColor, hcolor, hd]
  have hm2 : bottomInTarget2 lb cf = bottomInTarget2 lb' cf := by simp only [bottomInTarget2, hm]
  rw [composite, composite, hst, hsb, resolve, resolve, hm2]

/-- The top pixel's coefficient is read by RES.BPP only (R73, R105). -/
theorem composite_coefficient {lt lb : LayerPixel} {p3 : Pixel3D} {cf : CfgRec} {k : BitVec 4}
    (h : decode .reskey (resKey lt lb cf) = .ok .resBpp → lt.perPixelCoefficient = k) :
    composite { lt with perPixelCoefficient := k } lb p3 cf = composite lt lb p3 cf := by
  rw [resKey, decode_reskey_bits] at h
  unfold resolveInstr at h
  have htop : substituteTop { lt with perPixelCoefficient := k } lb p3 = substituteTop lt lb p3 := rfl
  rw [composite, composite, htop, resolve, resolve]
  congr 1
  split
  next => rfl
  next hrule1 =>
    split
    next hrule2 =>
      split
      next hppc => rw [← h (by simp only [if_neg hrule1, if_pos hrule2, if_pos hppc])]
      next => rfl
    next => rfl

/-- Where no slot is 3D-sourced the 3D pixel is not read (R84). -/
theorem composite_congr_3d {lt lb : LayerPixel} (p3 p3' : Pixel3D) {cf : CfgRec} (ht : lt.is3dSourced = false)
    (hb : lb.is3dSourced = false) : composite lt lb p3 cf = composite lt lb p3' cf := by
  simp [composite, resolve, substituteTop, substituteBottom, ht, hb]

/-- The output is the same for words that agree in the bits the stages read. -/
theorem pixel_congr {L : Config.LayerLayout} {wt wt' wb wb' w3 w3' : Word32} {cf : CfgRec}
    (hb : ∀ b, b < 18 ∨ b = L.d ∨ L.m ≤ b ∧ b < L.m + 6 → wb.getLsbD b = wb'.getLsbD b)
    (h3 : ∀ b, b < 23 → w3.getLsbD b = w3'.getLsbD b)
    (ht : ∀ b, b < 18 ∨ b = L.d ∨ b = L.a ∨ b = L.p ∨ L.m ≤ b ∧ b < L.m + 6 → wt.getLsbD b = wt'.getLsbD b)
    (hk : decode .reskey (resKey (decodeLayer L wt) (decodeLayer L wb) cf) = .ok .resBpp →
      ∀ b, L.k ≤ b → b < L.k + 4 → wt.getLsbD b = wt'.getLsbD b) :
    pixel L wt wb w3 cf = pixel L wt' wb' w3' cf := by
  have hcoefficient (hsel : decode .reskey (resKey (decodeLayer L wt) (decodeLayer L wb) cf) = .ok .resBpp) :
      (decodeLayer L wt).perPixelCoefficient = wt'.extractLsb' L.k 4 := extractLsb'_congr (hk hsel)
  have hcolor : (decodeLayer L wb).color = (decodeLayer L wb').color := decodeColor_congr fun b hlt => hb b (.inl hlt)
  have hflag : (decodeLayer L wb).is3dSourced = (decodeLayer L wb').is3dSourced := hb L.d (.inr (.inl rfl))
  have hmask : (decodeLayer L wb).targetMask = (decodeLayer L wb').targetMask :=
    extractLsb'_congr fun b hlo hhi => hb b (.inr (.inr ⟨hlo, hhi⟩))
  calc pixel L wt wb w3 cf
      = composite (decodeLayer L wt) (decodeLayer L wb) (decodeP3d w3) cf := pixel_eq_composite ..
    _ = composite (decodeLayer L wt') (decodeLayer L wb) (decodeP3d w3) cf := by
        rw [decodeLayer_congr_upTo_coefficient ht, composite_coefficient hcoefficient]
    _ = composite (decodeLayer L wt') (decodeLayer L wb') (decodeP3d w3) cf := composite_congr_bottom hcolor hflag hmask
    _ = composite (decodeLayer L wt') (decodeLayer L wb') (decodeP3d w3') cf := by rw [decodeP3d_congr h3]
    _ = pixel L wt' wb' w3' cf := (pixel_eq_composite ..).symm

/-- Settles O38: `pixel_congr`, its bits read off the masks where the layout is the default one; and the 3D word by
`composite_congr_3d`. -/
theorem ignoredBitsDoNotMatter : Obligations.IgnoredBitsDoNotMatter := by
  refine ⟨fun wt wt' wb wb' w3 w3' cf hb h3 ht => ?_, fun L wt wt' wb wb' w3 w3' cf => pixel_congr, fun L wt wb w3 w3' cf ht hb => ?_⟩
  · have hbottom := getLsbD_eq_of_and_eq (P := fun b => b < 18 ∨ b = 23 ∨ 26 ≤ b ∧ b < 32) hb (by decide)
    have h3d := getLsbD_eq_of_and_eq (P := fun b => b < 23) h3 (by decide)
    rcases ht with ht | ⟨ht, hsel⟩
    · have htop := getLsbD_eq_of_and_eq (P := fun b => b < 22 ∨ 23 ≤ b ∧ b < 32) ht (by decide)
      exact pixel_congr hbottom h3d (fun b hbit => htop b (by simp only [defaultLayout] at hbit; omega))
        fun _ b _ hhi => htop b (.inl hhi)
    · have htop := getLsbD_eq_of_and_eq (P := fun b => b < 18 ∨ 23 ≤ b ∧ b < 32) ht (by decide)
      exact pixel_congr hbottom h3d (fun b hbit => htop b (by simp only [defaultLayout] at hbit; omega))
        fun h => absurd h hsel
  · rw [pixel_eq_composite, pixel_eq_composite]
    exact composite_congr_3d _ _ ht hb

/-! ## FRAME -/

theorem screenOf_val (screen : Screen) : screenOf screen.val = some screen := dif_pos screen.isLt

/-- A frame that starts runs every position from the first on (R134). -/
theorem execFrame_of_start {screen : Screen} {s u : State} (h : frameStart screen s = .next u) :
    execFrame screen.val s = pixelsFrom Config.pixels 0 u := by
  simp only [execFrame, screenOf_val, h]

theorem execFrame_of_refused {screen : Screen} {s : State} {r : Refusal} (h : frameStart screen s = .refused r) :
    execFrame screen.val s = .refused r := by
  simp only [execFrame, screenOf_val, h]

/-- A frame started over canonical buffers has the invariant, whatever was left of an earlier one. -/
theorem startedFrame_frameInv {screen : Screen} {s : State} (hidle : s.phase = .idle) (hwf : s.mem.wf)
    (hslot : no3dOffScreen s.layout screen s.mem) : FrameInv (startedFrame screen s) := by
  have hquiet : FrameInv { s with screen3d := none, started := [], cur := none, waiting := [] } :=
    frameInv_of_idle hidle hwf ⟨List.Pairwise.nil, fun e he => by cases he⟩ rfl rfl rfl
  exact frameStart_frameInv hquiet (frameStart_next.mpr ⟨hidle, hslot, rfl⟩)

/-- The state after FRAME: the started state with its output written, all positions begun, and the phase Done (R134). -/
theorem eq_of_pixelsFrom_startedFrame {screen : Screen} {s t : State}
    (h : pixelsFrom Config.pixels 0 (startedFrame screen s) = .next t) :
    t = { s with phase := .done, screen3d := some screen, mem := { s.mem with out := t.mem.out }, started := t.started, cur := none,
                 waiting := [] } := by
  obtain ⟨⟨htop, hbot, hg3d, hcfg⟩, hlayout, hcur, hwait, hmoves, hshown, hscreen⟩ := pixelsFrom_keeps h
  have hdone : t.phase = .done := pixelsFrom_done h (by decide) rfl rfl (by simp [startedFrame])
  obtain ⟨layout, phase, screen3d, ⟨top, bot, g3d, cfg, out⟩, started, cur, waiting, moves, shown⟩ := t
  simp only [startedFrame] at *
  simp only [*]

/-- The inputs of a position are what the fetch finds there, and nothing else. -/
theorem inputsAt_unique {m : Memory} {p : Pos} {f g : Fetched} (hf : inputsAt m p f) (hg : inputsAt m p g) : f = g :=
  Except.ok.inj ((fetchAt_ok.mpr hf).symm.trans (fetchAt_ok.mpr hg))

/-- Settles O43: the frame starts, the run of its positions completes, and the invariant says at Done what has begun and what `OUT`
holds. -/
theorem frameCompositesEveryPixel : Obligations.FrameCompositesEveryPixel := by
  intro s screen hidle hwf hslot hinputs
  have hclear := no3dOffScreen_of_noSlotOff hwf hslot
  have hstart : frameStart screen s = .next (startedFrame screen s) := frameStart_next.mpr ⟨hidle, hclear, rfl⟩
  obtain ⟨t, hpixels, -⟩ := pixelsFrom_completes Config.pixels 0 (startedFrame screen s) (Nat.zero_add _) (fun _ => rfl)
    (by simp [startedFrame]) rfl (fun _ _ => rfl) hinputs
  have ht := eq_of_pixelsFrom_startedFrame hpixels
  have hinv : FrameInv t := pixelsFrom_frameInv (startedFrame_frameInv hidle hwf hclear) hpixels
  have hdone : t.phase = .done := by rw [ht]
  have hflight : inFlight t = [] := by rw [ht]; rfl
  refine ⟨t.mem.out, t.started, ?_, hinv.doneComplete hdone, fun p f hf => ?_⟩
  · rw [← ht]
    exact (execFrame_of_start hstart).trans hpixels
  · obtain ⟨g, hg, hout⟩ := hinv.stored (by rw [hdone]; decide) p (hinv.doneComplete hdone p) (by simp [hflight])
    have hlayout : t.layout = s.layout := by rw [ht]
    have hg' : inputsAt s.mem p g := by rw [ht] at hg; exact hg
    obtain rfl := inputsAt_unique hf hg'
    rw [hlayout] at hout
    exact hout

/-! ## A 3D-sourced slot off the screen -/

/-- The screen of an index is that of its position (R24). -/
theorem indexScreen_posIndex (p : Pos) : indexScreen (posIndex p) = p.screen.val :=
  (linear_digits p.row.isLt p.col.isLt).1

/-- A word with the flag on another screen is found by the check of frame_start (R61, R144). -/
theorem flaggedOffScreen_of_readBuf {L : Config.LayerLayout} {screen : Screen} {b : Buf Word32} {p : Pos} {w : Word32}
    (hp : p.screen ≠ screen) (hd : w.getLsbD L.d = true) (hw : readBuf b (posIndex p) = some w) : flaggedOffScreen L screen b = true := by
  refine List.any_eq_true.mpr ⟨_, mem_of_readBuf hw, ?_⟩
  rw [Bool.and_eq_true, decide_eq_true_eq, indexScreen_posIndex]
  exact ⟨fun h => hp (Fin.ext h), hd⟩

theorem frameStart_offScreen {screen : Screen} {s : State} (hidle : s.phase = .idle)
    (h : flaggedOffScreen s.layout screen s.mem.top = true ∨ flaggedOffScreen s.layout screen s.mem.bot = true) :
    frameStart screen s = .refused .flag3DOffScreen := by
  rw [frameStart, if_neg (not_not.mpr hidle), if_pos (Bool.or_eq_true _ _ ▸ h)]

/-- Settles O44: the check of frame_start finds the word, and FRAME begins with frame_start. -/
theorem offScreen3dRefused : Obligations.OffScreen3dRefused := by
  intro s screen p w hidle hp hd hw
  have hflag := hw.imp (flaggedOffScreen_of_readBuf hp hd) (flaggedOffScreen_of_readBuf hp hd)
  exact ⟨execFrame_of_refused (frameStart_offScreen hidle hflag),
    fun ms => frameStart_offScreen (s := { s with moves := ms }) hidle hflag⟩

/-! ## The operation a step runs -/

/-- An operation line runs the operation that the word it reads decodes to. -/
theorem runSelection_selectLine {s : State} {inv : Invocation} {f : KeyFormat} {w : BitVec 32} {i : Instr} (hcur : s.cur = some inv)
    (hline : nextLine inv.latches = .operation f w) (hi : decode f w = .ok i) : runSelection (selectLine s) = exec i s := by
  simp only [selectLine, hcur, hline, hi, runSelection]

/-- With no move pending and none current, the first invocation that waits is resumed (log 8). -/
theorem step_waiting {s : State} {inv : Invocation} {rest : List Invocation} (hrun : s.phase = .run) (hmoves : s.moves = [])
    (hcur : s.cur = none) (hwait : s.waiting = inv :: rest) :
    step s = runSelection (selectLine { s with cur := some inv, waiting := rest }) := by
  simp only [step, select, hmoves, selectOwn, hrun, hcur, hwait]

/-- A move that is pending is taken off the list and made (log 9). -/
theorem step_move {s : State} {m : Move} {ms : List Move} (hmoves : s.moves = m :: ms) :
    step s = runSelection (selectMove m { s with moves := ms }) := by
  simp only [step, select, hmoves]

theorem selectMove_advance {s u : State} {p : Pos} (h : selectAt p s = some u) : selectMove (.advance p) s = selectLine u := by
  simp only [selectMove, h]

/-- Settles O45: the line of the invocation that goes on, however it came to be current, or the move that is taken. -/
theorem stepRunsSelectedOperation : Obligations.StepRunsSelectedOperation := by
  refine ⟨fun s inv f w i hrun hmoves hcur hline hi => ?_, fun s inv rest f w i hrun hmoves hcur hwait hline hi => ?_,
    fun s u inv ms p f w i hmoves hu hcur hline hi => ?_, fun s ms p => step_move, fun s ms screen => step_move⟩
  · rw [step_current hrun hmoves hcur, runSelection_selectLine hcur hline hi]
  · rw [step_waiting hrun hmoves hcur hwait, runSelection_selectLine rfl hline hi]
  · rw [step_move hmoves, selectMove_advance hu, runSelection_selectLine hcur hline hi]

end Machine
end Sys2Proof

/-! PROOFS. The decoder (R80 to R86): packing a decoded word again, the colour scale, and which stage operations may be exchanged
(R80, R90). -/

namespace Sys2Proof

/-! ## A decoded word packed again -/

/-- A flag of a word packed as a field of one bit is that bit of the word. -/
theorem ofBool_getLsbD (w : Word32) (b : Nat) : BitVec.ofBool (w.getLsbD b) = w.extractLsb' b 1 := by
  have h : ∀ v : BitVec 1, BitVec.ofBool (decide (v = 1)) = v := by decide
  rw [getLsbD_eq_extractLsb', h]

/-- A field read from a word holds the word's own bits and no others. -/
theorem getLsbD_word_of_extractLsb' {f : BitField} {w : Word32} {b : Nat} (hf : f.value = w.extractLsb' f.pos f.width)
    (hb : b < 32) : f.word.getLsbD b = (decide (b ∈ f.bits) && w.getLsbD b) := by
  by_cases hmem : b ∈ f.bits
  · obtain ⟨hpos, hwidth⟩ := List.mem_range'_1.mp hmem
    obtain ⟨i, rfl⟩ := Nat.exists_eq_add_of_le hpos
    have hi : i < f.width := by omega
    simp [getLsbD_word_add hb, hf, hmem, hi]
  · simp [getLsbD_word_of_notMem hmem, hmem]

/-- Fields read from a word, packed again, hold the word's bits that some field takes up. -/
theorem getLsbD_packed_of_extractLsb' {fs : List BitField} {w : Word32} {b : Nat}
    (hfs : ∀ f ∈ fs, f.value = w.extractLsb' f.pos f.width) (hb : b < 32) : (packed fs).getLsbD b = (decide (b ∈ fs.flatMap BitField.bits) && w.getLsbD b) := by
  induction fs with
  | nil => simp [packed]
  | cons f fs ih =>
    obtain ⟨hf, hrest⟩ := List.forall_mem_cons.mp hfs
    rw [packed_cons, BitVec.getLsbD_or, getLsbD_word_of_extractLsb' hf hb, ih hrest, ← Bool.and_or_distrib_right, List.flatMap_cons,
      ← Bool.decide_or]
    simp only [List.mem_append]

/-- Fields read from a word, packed again, give the word with every bit cleared that no field takes up. -/
theorem packed_eq_and {fs : List BitField} {w mask : Word32} (hfs : ∀ f ∈ fs, f.value = w.extractLsb' f.pos f.width)
    (hmask : ∀ b < 32, mask.getLsbD b = decide (b ∈ fs.flatMap BitField.bits)) : packed fs = w &&& mask := by
  apply BitVec.eq_of_getLsbD_eq
  intro b hb
  rw [BitVec.getLsbD_and, getLsbD_packed_of_extractLsb' hfs hb, hmask b hb, Bool.and_comm]

theorem layerFields_decodeLayer (L : Config.LayerLayout) (w : Word32) :
    ∀ f ∈ layerFields L (decodeLayer L w), f.value = w.extractLsb' f.pos f.width := by
  simp [layerFields, decodeLayer, decodeColor, ofBool_getLsbD]

/-- The default layout leaves bit 22 of a layer word to no field (R61, R86). -/
theorem encodeLayer_decodeLayer (w : Word32) : encodeLayer defaultLayout (decodeLayer defaultLayout w) = w &&& 0xFFBFFFFF := by
  rw [encodeLayer_eq_packed]
  refine packed_eq_and (layerFields_decodeLayer _ w) ?_
  rw [bits_layerFields]
  decide

/-! ## The 3D word -/

/-- The fields of a 3D pixel in its word (R64, R86). -/
def p3dFields (px : Pixel3D) : List BitField :=
  [⟨0, 6, px.color.r⟩, ⟨6, 6, px.color.g⟩, ⟨12, 6, px.color.b⟩, ⟨18, 5, px.alpha⟩]

theorem encodeP3d_eq_packed (px : Pixel3D) : encodeP3d px = packed (p3dFields px) := by
  simp [encodeP3d, encodeColor, p3dFields, packed, BitField.word, BitVec.or_assoc]

theorem bits_p3dFields (px : Pixel3D) : (p3dFields px).flatMap BitField.bits = List.range 23 := rfl

/-- A 3D pixel survives packing and unpacking (R86). -/
theorem decodeP3d_encodeP3d (px : Pixel3D) : decodeP3d (encodeP3d px) = px := by
  have hfields : ∀ f ∈ p3dFields px, (packed (p3dFields px)).extractLsb' f.pos f.width = f.value := fun f hf =>
    extractLsb'_packed (by rw [bits_p3dFields]; decide) (by rw [bits_p3dFields]; decide) hf
  rw [← encodeP3d_eq_packed] at hfields
  simp only [p3dFields, List.forall_mem_cons] at hfields
  obtain ⟨hr, hg, hb, halpha, -⟩ := hfields
  rw [decodeP3d, decodeColor, hr, hg, hb, halpha]

theorem p3dFields_decodeP3d (w : Word32) : ∀ f ∈ p3dFields (decodeP3d w), f.value = w.extractLsb' f.pos f.width := by
  simp [p3dFields, decodeP3d, decodeColor]

/-- Bits 31:23 of a 3D word belong to no field (R64, R86). -/
theorem encodeP3d_decodeP3d (w : Word32) : encodeP3d (decodeP3d w) = w &&& 0x007FFFFF := by
  rw [encodeP3d_eq_packed]
  refine packed_eq_and (p3dFields_decodeP3d w) ?_
  rw [bits_p3dFields]
  decide

/-- Settles O5: the round trips by fields; every layer pixel is the decode of its own word, and words that differ in an ignored bit
only (22 of a layer word, 23 of a 3D word) decode alike. -/
theorem decodeInvertsEncode : Obligations.DecodeInvertsEncode :=
  have hround := decodeLayer_encodeLayer (L := defaultLayout) (by decide)
  ⟨hround, encodeLayer_decodeLayer, decodeP3d_encodeP3d, encodeP3d_decodeP3d, fun px => ⟨encodeLayer defaultLayout px, hround px⟩,
    ⟨0, 0x00400000, by decide, by decide⟩, ⟨0, 0x00800000, by decide, by decide⟩⟩

namespace Machine

/-! ## The colour scale -/

theorem norm6_eq (v : BitVec 6) : norm6 v = (v.toNat : Rat) / 63 := by
  norm_num [norm6, Config.chDiv]

theorem norm6_lt_norm6 {v w : BitVec 6} (h : v.toNat < w.toNat) : norm6 v < norm6 w := by
  rw [norm6_eq, norm6_eq, div_lt_div_iff_of_pos_right (by norm_num)]
  exact_mod_cast h

theorem norm6_injective : Function.Injective norm6 := by
  intro v w h
  rw [norm6_eq, norm6_eq, div_left_inj' (by norm_num)] at h
  exact BitVec.eq_of_toNat_eq (by exact_mod_cast h)

/-- Settles O11: by `norm6_eq` a channel is its number over 63, and dividing by 63 keeps order and difference. -/
theorem colourScaleIs63 : Obligations.ColourScaleIs63 :=
  ⟨by simp [norm6_eq], by simp [norm6_eq], by simp [norm6_eq], norm6_eq, fun _ _ => norm6_lt_norm6, fun _ _ h => norm6_injective h,
    norm6_mem⟩

/-! ## The 3D decode -/

/-- Settles O10: the third row of the decoder takes every word, and DEC.P3 writes the decoded word (`exec_decP3`). -/
theorem decP3Decodes3dWord : Obligations.DecP3Decodes3dWord :=
  ⟨decode_of_mem_decRows (row := ⟨.p3d, 0x0, 0x0, .decP3⟩) (by decide), fun _ _ _ => exec_decP3⟩

/-! ## Operations that may be exchanged -/

/-- The operation completes exactly when an invocation is current whose latches give the value `src`, and puts that value into
them. -/
def Assigns {α : Type} (i : Instr) (src : Config.LayerLayout → Latches → Option α) (put : α → Latches → Latches) : Prop :=
  ∀ s t, exec i s = .next t ↔
    ∃ inv v, s.cur = some inv ∧ src s.layout inv.latches = some v ∧ t = withCur s inv (put v inv.latches)

/-- An operation that reads one latch assigns what it makes of the latch's value. -/
theorem assigns_of_operand {α β : Type} {i : Instr} {n : LatchName} {latch : Latches → Option β} {make : Config.LayerLayout → β → α}
    {put : α → Latches → Latches}
    (hexec : ∀ s, exec i s = onLatches (fun l => operand n (latch l) fun w => .ok (put (make s.layout w) l)) s) :
    Assigns i (fun L l => (latch l).map (make L)) put := by
  intro s t
  rw [hexec, onLatches_next]
  constructor
  · rintro ⟨inv, l, hcur, hl, rfl⟩
    obtain ⟨w, hw, hput⟩ := operand_ok.mp hl
    cases hput
    exact ⟨inv, _, hcur, Option.map_eq_some_iff.mpr ⟨w, hw, rfl⟩, rfl⟩
  · rintro ⟨inv, v, hcur, hv, rfl⟩
    obtain ⟨w, hw, rfl⟩ := Option.map_eq_some_iff.mp hv
    exact ⟨inv, _, hcur, operand_ok.mpr ⟨w, hw, rfl⟩, rfl⟩

/-- `i` and then `j` complete from `s`, and end in `u`. -/
def Reaches (i j : Instr) (s u : State) : Prop := ∃ t, exec i s = .next t ∧ exec j t = .next u

/-- The two operations may be done in either order. -/
def Exchange (i j : Instr) : Prop := ∀ s u, Reaches i j s u ↔ Reaches j i s u

theorem Exchange.refl (i : Instr) : Exchange i i := fun _ _ => .rfl

theorem Exchange.symm {i j : Instr} (h : Exchange i j) : Exchange j i := fun s u => (h s u).symm

section
variable {α β : Type} {i j : Instr} {src : Config.LayerLayout → Latches → Option α} {put : α → Latches → Latches}
  {src' : Config.LayerLayout → Latches → Option β} {put' : β → Latches → Latches}

theorem Assigns.reaches_swap (hi : Assigns i src put) (hj : Assigns j src' put') (hsrc : ∀ L v l, src L (put' v l) = src L l)
    (hsrc' : ∀ L v l, src' L (put v l) = src' L l) (hput : ∀ v v' l, put v (put' v' l) = put' v' (put v l)) {s u : State}
    (h : Reaches i j s u) : Reaches j i s u := by
  obtain ⟨t, ht, hu⟩ := h
  obtain ⟨inv, v, hcur, hv, rfl⟩ := (hi s t).mp ht
  obtain ⟨_, v', ⟨⟩, hv', rfl⟩ := (hj _ u).mp hu
  refine ⟨withCur s inv (put' v' inv.latches), (hj _ _).mpr ⟨inv, v', hcur, (hsrc' _ _ _).symm.trans hv', rfl⟩,
    (hi _ _).mpr ⟨_, v, rfl, (hsrc _ _ _).trans hv, ?_⟩⟩
  simp only [withCur, hput]

/-- Two operations may be exchanged when neither changes the value that the other assigns, and they assign it to different
places. -/
theorem Assigns.exchange (hi : Assigns i src put) (hj : Assigns j src' put') (hsrc : ∀ L v l, src L (put' v l) = src L l)
    (hsrc' : ∀ L v l, src' L (put v l) = src' L l) (hput : ∀ v v' l, put v (put' v' l) = put' v' (put v l)) : Exchange i j :=
  fun _ _ => ⟨hi.reaches_swap hj hsrc hsrc' hput, hj.reaches_swap hi hsrc' hsrc fun v' v l => (hput v v' l).symm⟩

end

/-! ### The decodes -/

/-- `x[LT] <- v`. -/
def setLt (v : LayerPixel) (l : Latches) : Latches := { l with lt := some v }

/-- `x[LB] <- v`. -/
def setLb (v : LayerPixel) (l : Latches) : Latches := { l with lb := some v }

/-- `x[P3] <- v`. -/
def setP3 (v : Pixel3D) (l : Latches) : Latches := { l with p3 := some v }

theorem decLt_assigns : Assigns .decLt (fun L l => l.wt.map (decodeLayer L)) setLt := assigns_of_operand fun _ => rfl

theorem decLb_assigns : Assigns .decLb (fun L l => l.wb.map (decodeLayer L)) setLb := assigns_of_operand fun _ => rfl

theorem decP3_assigns : Assigns .decP3 (fun _ l => l.w3.map decodeP3d) setP3 := assigns_of_operand fun _ => rfl

theorem exchange_decLt_decLb : Exchange .decLt .decLb :=
  decLt_assigns.exchange decLb_assigns (fun _ _ _ => rfl) (fun _ _ _ => rfl) fun _ _ _ => rfl

theorem exchange_decLt_decP3 : Exchange .decLt .decP3 :=
  decLt_assigns.exchange decP3_assigns (fun _ _ _ => rfl) (fun _ _ _ => rfl) fun _ _ _ => rfl

theorem exchange_decLb_decP3 : Exchange .decLb .decP3 :=
  decLb_assigns.exchange decP3_assigns (fun _ _ _ => rfl) (fun _ _ _ => rfl) fun _ _ _ => rfl

/-- A decode reads a fetched word and writes a decoded pixel of its own (R80). -/
theorem exchange_decodes {i j : Instr} (hi : i ∈ [Instr.decLt, .decLb, .decP3]) (hj : j ∈ [Instr.decLt, .decLb, .decP3]) :
    Exchange i j := by
  simp only [List.mem_cons, List.not_mem_nil, or_false] at hi hj
  rcases hi with rfl | rfl | rfl
  · rcases hj with rfl | rfl | rfl
    exacts [.refl _, exchange_decLt_decLb, exchange_decLt_decP3]
  · rcases hj with rfl | rfl | rfl
    exacts [exchange_decLt_decLb.symm, .refl _, exchange_decLb_decP3]
  · rcases hj with rfl | rfl | rfl
    exacts [exchange_decLt_decP3.symm, exchange_decLb_decP3.symm, .refl _]

/-! ### The substitutions -/

/-- A top substitution writes ST and reads a decoded pixel, never SB (R90 to R93). -/
theorem substTop_assigns {i : Instr} (hi : i ∈ [Instr.subtKeep, .subt3d, .subtFall]) :
    ∃ src, (∀ L v l, src L (setSb v l) = src L l) ∧ Assigns i src setSt := by
  simp only [List.mem_cons, List.not_mem_nil, or_false] at hi
  rcases hi with rfl | rfl | rfl
  · exact ⟨fun _ l => l.lt.map subtKeepColor, fun _ _ _ => rfl, assigns_of_operand fun _ => rfl⟩
  · exact ⟨fun _ l => l.p3.map subt3dColor, fun _ _ _ => rfl, assigns_of_operand fun _ => rfl⟩
  · exact ⟨fun _ l => l.lb.map subtFallColor, fun _ _ _ => rfl, assigns_of_operand fun _ => rfl⟩

/-- SUBB.BLACK reads no latch (R96). -/
theorem subbBlack_assigns : Assigns .subbBlack (fun _ _ => some subbBlackColor) setSb := by
  intro s t
  simp [exec, execSubbBlack, onLatches_next, withCur]

/-- A bottom substitution writes SB and reads a decoded pixel at most, never ST (R90, R94 to R96). -/
theorem substBottom_assigns {i : Instr} (hi : i ∈ [Instr.subbKeep, .subb3d, .subbBlack]) :
    ∃ src, (∀ L v l, src L (setSt v l) = src L l) ∧ Assigns i src setSb := by
  simp only [List.mem_cons, List.not_mem_nil, or_false] at hi
  rcases hi with rfl | rfl | rfl
  · exact ⟨fun _ l => l.lb.map subbKeepColor, fun _ _ _ => rfl, assigns_of_operand fun _ => rfl⟩
  · exact ⟨fun _ l => l.p3.map subb3dColor, fun _ _ _ => rfl, assigns_of_operand fun _ => rfl⟩
  · exact ⟨_, fun _ _ _ => rfl, subbBlack_assigns⟩

/-- A top and a bottom substitution read decoded pixels, and the one writes ST, the other SB (R90). -/
theorem exchange_substitutions {i j : Instr} (hi : i ∈ [Instr.subtKeep, .subt3d, .subtFall])
    (hj : j ∈ [Instr.subbKeep, .subb3d, .subbBlack]) : Exchange i j := by
  obtain ⟨top, htop, hi⟩ := substTop_assigns hi
  obtain ⟨bottom, hbottom, hj⟩ := substBottom_assigns hj
  exact hi.exchange hj htop hbottom fun _ _ _ => rfl

/-- Settles O12: two decodes by `exchange_decodes`, a top and a bottom substitution by `exchange_substitutions` in either order. -/
theorem independentOperationsCommute : Obligations.IndependentOperationsCommute := by
  intro i j h s t u ht hu
  have hexchange : Exchange i j := by
    rcases h with ⟨hi, hj⟩ | ⟨hi, hj⟩ | ⟨hi, hj⟩
    · exact exchange_decodes hi hj
    · exact exchange_substitutions hi hj
    · exact (exchange_substitutions hj hi).symm
  exact (hexchange s u).mp ⟨t, ht, hu⟩

end Machine
end Sys2Proof

/-! PROOFS. The substitution stage (R90 to R97): its table, the operation that each key selects, and the colour that the operation
writes. -/

namespace Sys2Proof.Machine

/-! ## The table of the stage -/

theorem norm6c_eq_over63 (c : RawColor) : norm6c c = over63 c := by
  simp only [norm6c, over63, norm6_eq]

theorem black_eq_over63 : black = over63 ⟨0, 0, 0⟩ := by
  simp [black, over63]

theorem substituteTop_eq (lt lb : LayerPixel) (p3 : Pixel3D) : substituteTop lt lb p3
    = if lt.is3dSourced = false then over63 lt.color else if p3.alpha = 0 then over63 lb.color else over63 p3.color := by
  simp only [substituteTop, subtKeepColor, subt3dColor, subtFallColor, norm6c_eq_over63]
  cases lt.is3dSourced <;> rfl

theorem substituteBottom_eq (lb : LayerPixel) (p3 : Pixel3D) : substituteBottom lb p3
    = if lb.is3dSourced = false then over63 lb.color else if p3.alpha = 0 then black else over63 p3.color := by
  simp only [substituteBottom, subbKeepColor, subb3dColor, subbBlackColor, norm6c_eq_over63]
  cases lb.is3dSourced <;> rfl

/-- In each case of R97 the top slot takes the colour of one pixel whole. -/
theorem exists_substituteTop_eq_over63 (lt lb : LayerPixel) (p3 : Pixel3D) : ∃ c, substituteTop lt lb p3 = over63 c := by
  rw [substituteTop_eq]
  split_ifs
  exacts [⟨_, rfl⟩, ⟨_, rfl⟩, ⟨_, rfl⟩]

/-- In each case of R97 the bottom slot takes a 6-bit colour whole: that of one pixel, or black. -/
theorem exists_substituteBottom_eq_over63 (lb : LayerPixel) (p3 : Pixel3D) : ∃ c, substituteBottom lb p3 = over63 c := by
  rw [substituteBottom_eq]
  split_ifs
  exacts [⟨_, rfl⟩, ⟨_, black_eq_over63⟩, ⟨_, rfl⟩]

/-- Settles O19: the table is `substituteTop_eq` and `substituteBottom_eq`; each of its entries is a 6-bit colour over 63, and the
entry of a slot that is not 3D-sourced does not name the 3D pixel. -/
theorem substitutionTable : Obligations.SubstitutionTable := by
  intro lt lb p3
  refine ⟨substituteTop_eq lt lb p3, substituteBottom_eq lb p3, ?_, fun ht hb q => ?_⟩
  · obtain ⟨top, htop⟩ := exists_substituteTop_eq_over63 lt lb p3
    obtain ⟨bottom, hbottom⟩ := exists_substituteBottom_eq_over63 lb p3
    exact ⟨top.r.toFin, top.g.toFin, top.b.toFin, bottom.r.toFin, bottom.g.toFin, bottom.b.toFin, htop, hbottom⟩
  · simp only [substituteTop_eq, substituteBottom_eq, if_pos ht, if_pos hb, and_self]

/-! ## The six operations -/

theorem decode_subkeyT (lt : LayerPixel) (p3 : Pixel3D) :
    decode .subkeyT (subKey lt p3) = .ok (substTopInstr lt.is3dSourced (alphaZero p3)) :=
  decode_subkeyT_bits _ _

theorem decode_subkeyB (lb : LayerPixel) (p3 : Pixel3D) :
    decode .subkeyB (subKey lb p3) = .ok (substBottomInstr lb.is3dSourced (alphaZero p3)) :=
  decode_subkeyB_bits _ _

/-- An operation that reads one latch completes when an invocation is current and that latch of it holds a value. -/
theorem onLatches_operand {α : Type} {n : LatchName} {latch : Latches → Option α} {put : α → Latches → Latches} {s : State}
    {inv : Invocation} {v : α} (hcur : s.cur = some inv) (hv : latch inv.latches = some v) :
    onLatches (fun l => operand n (latch l) fun w => .ok (put w l)) s = .next (withCur s inv (put v inv.latches)) :=
  onLatches_ok hcur (by rw [hv, operand_some])

/-- Settles O13: a clear 3D bit alone selects SUBT.KEEP, and its one operand is LT. -/
theorem subtKeepKeepsTopColour : Obligations.SubtKeepKeepsTopColour := by
  refine ⟨fun lt p3 hd => ?_, fun s inv lt hcur hlt => ?_⟩
  · rw [decode_subkeyT, hd]
    rfl
  · rw [← norm6c_eq_over63]
    exact onLatches_operand hcur hlt

/-- Settles O14: every alpha but 0 makes the key 10, and the one operand is P3, whose alpha the colour does not take up. -/
theorem subt3dTakes3dColour : Obligations.Subt3dTakes3dColour := by
  refine ⟨fun lt p3 hd ha => ?_, fun s inv p3 hcur hp3 => ?_⟩
  · rw [decode_subkeyT, hd, alphaZero, decide_eq_false ha]
    rfl
  · rw [← norm6c_eq_over63]
    exact onLatches_operand hcur hp3

/-- Settles O15: the key is 11, and the one operand is LB, never SB. -/
theorem subtFallTakesBottomColour : Obligations.SubtFallTakesBottomColour := by
  refine ⟨fun lt p3 hd ha => ?_, fun s inv lb hcur hlb => ?_⟩
  · rw [decode_subkeyT, hd, alphaZero, decide_eq_true ha]
    rfl
  · rw [← norm6c_eq_over63]
    exact onLatches_operand hcur hlb

/-- Settles O16: a clear 3D bit alone selects SUBB.KEEP, and its one operand is LB. -/
theorem subbKeepKeepsBottomColour : Obligations.SubbKeepKeepsBottomColour := by
  refine ⟨fun lb p3 hd => ?_, fun s inv lb hcur hlb => ?_⟩
  · rw [decode_subkeyB, hd]
    rfl
  · rw [← norm6c_eq_over63]
    exact onLatches_operand hcur hlb

/-- Settles O17: every alpha but 0 makes the key 10, and the one operand is P3. -/
theorem subb3dTakes3dColour : Obligations.Subb3dTakes3dColour := by
  refine ⟨fun lb p3 hd ha => ?_, fun s inv p3 hcur hp3 => ?_⟩
  · rw [decode_subkeyB, hd, alphaZero, decide_eq_false ha]
    rfl
  · rw [← norm6c_eq_over63]
    exact onLatches_operand hcur hp3

/-- Settles O18: the key is 11, and SUBB.BLACK has no operand (`subbBlack_assigns`). -/
theorem subbBlackWritesBlack : Obligations.SubbBlackWritesBlack := by
  refine ⟨fun lb p3 hd ha => ?_, fun s inv hcur => ?_⟩
  · rw [decode_subkeyB, hd, alphaZero, decide_eq_true ha]
    rfl
  · exact (subbBlack_assigns s _).mpr ⟨inv, _, hcur, rfl, rfl⟩

end Sys2Proof.Machine

/-! PROOFS. The resolver (R100 to R114): the operation that its key selects, the colour that the operation writes, and the arithmetic
of the blends and of the two brightness functions. -/

namespace Sys2Proof.Machine

/-! ## The operation that the key selects -/

theorem decode_resKey (lt lb : LayerPixel) (cf : CfgRec) : decode .reskey (resKey lt lb cf)
    = .ok (resolveInstr lt.is3dSourced lt.alphaBlendEnabled lt.usesPerPixelCoefficient (topInTarget1 lt cf) (bottomInTarget2 lb cf)
        cf.effectSelect) :=
  decode_reskey_bits _ _ _ _ _ _

theorem topInTarget1_of_meets {lt : LayerPixel} {cf : CfgRec} (h : meets lt.targetMask cf.target1Mask) : topInTarget1 lt cf = true :=
  (intersects_iff _ _).mpr h

theorem topInTarget1_of_not_meets {lt : LayerPixel} {cf : CfgRec} (h : ¬ meets lt.targetMask cf.target1Mask) :
    topInTarget1 lt cf = false :=
  (intersects_eq_false _ _).mpr h

theorem bottomInTarget2_of_meets {lb : LayerPixel} {cf : CfgRec} (h : meets lb.targetMask cf.target2Mask) :
    bottomInTarget2 lb cf = true :=
  (intersects_iff _ _).mpr h

theorem bottomInTarget2_of_not_meets {lb : LayerPixel} {cf : CfgRec} (h : ¬ meets lb.targetMask cf.target2Mask) :
    bottomInTarget2 lb cf = false :=
  (intersects_eq_false _ _).mpr h

/-- Settles O6: by `decode_resKey`, as `m1` and `m2` are the key's own mask bits. -/
theorem tableFollowsPriority : Obligations.TableFollowsPriority := by
  intro lt lb cf m1 m2 hm1 hm2
  have htop : topInTarget1 lt cf = m1 := Bool.eq_iff_iff.mpr ((intersects_iff _ _).trans hm1.symm)
  have hbottom : bottomInTarget2 lb cf = m2 := Bool.eq_iff_iff.mpr ((intersects_iff _ _).trans hm2.symm)
  rw [decode_resKey, htop, hbottom]
  cases cf.effectSelect <;> simp only [resolveInstr, Bool.and_eq_true]

/-- The operation of rule 3 (R103), by the two mask bits and the effect. -/
def effectInstr (m1 m2 : Bool) : Effect → Instr
  | .none => if m2 then .resFxnoneM2 else .resFxnone
  | .alphaBlend => if m2 then if m1 then .resFxalpha else .resFxapassM2 else .resFxapass
  | .brightnessUp => if m2 then .resFxupM2 else .resFxup
  | .brightnessDown => if m2 then .resFxdownM2 else .resFxdown

/-- Rules 1 and 2 both ask for a bottom in target 2 (R103). -/
theorem decode_resKey_of_not_meets (lt : LayerPixel) {lb : LayerPixel} {cf : CfgRec} (hm2 : ¬ meets lb.targetMask cf.target2Mask) :
    decode .reskey (resKey lt lb cf) = .ok (effectInstr (topInTarget1 lt cf) false cf.effectSelect) := by
  rw [decode_resKey, bottomInTarget2_of_not_meets hm2]
  simp only [resolveInstr, Bool.and_false]
  cases cf.effectSelect <;> rfl

/-- Over a bottom in target 2 the effect is left to a top that is neither 3D-sourced nor alpha-blend enabled (R103). -/
theorem decode_resKey_of_meets {lt lb : LayerPixel} {cf : CfgRec} (hm2 : meets lb.targetMask cf.target2Mask)
    (hd : lt.is3dSourced = false) (ha : lt.alphaBlendEnabled = false) :
    decode .reskey (resKey lt lb cf) = .ok (effectInstr (topInTarget1 lt cf) true cf.effectSelect) := by
  rw [decode_resKey, bottomInTarget2_of_meets hm2, hd, ha]
  simp only [resolveInstr, Bool.and_true]
  cases cf.effectSelect <;> rfl

/-! ## The colour that the operation writes -/

theorem blend_eq_weighted (a b : Color) (cA cB : Rat) : blend a b cA cB = weighted a b cA cB := by
  simp only [blend, blendChannel, weighted, clamp01_eq]

theorem coeff16_eq (n : Nat) : coeff16 n = (n : Rat) / 16 := by
  norm_num [coeff16, Config.coeffDiv]

theorem coeffAlpha_eq (alpha : BitVec 5) : coeffAlpha alpha = (alpha.toNat : Rat) / 31 := by
  norm_num [coeffAlpha, Config.alpha3dDiv]

theorem b3dColor_eq_weighted (st sb : Color) (p3 : Pixel3D) :
    b3dColor st sb p3 = weighted st sb ((p3.alpha.toNat : Rat) / 31) (1 - (p3.alpha.toNat : Rat) / 31) := by
  rw [b3dColor, blend_eq_weighted, coeffAlpha_eq]

theorem bppColor_eq_weighted (st sb : Color) (lt : LayerPixel) : bppColor st sb lt
    = weighted st sb ((lt.perPixelCoefficient.toNat : Rat) / 16) (1 - (lt.perPixelCoefficient.toNat : Rat) / 16) := by
  rw [bppColor, blend_eq_weighted, coeff16_eq]

theorem globalBlend_eq_weighted (st sb : Color) (cf : CfgRec) : globalBlend st sb cf
    = weighted st sb ((cf.blendCoeffA.toNat : Rat) / 16) ((cf.blendCoeffB.toNat : Rat) / 16) := by
  rw [globalBlend, blend_eq_weighted, coeff16_eq, coeff16_eq]

theorem fxUpColor_eq_towardWhite (st : Color) (cf : CfgRec) :
    fxUpColor st cf = towardWhite st ((cf.masterBrightnessFactor : Rat) / 16) := by
  simp only [fxUpColor, factor, up, mapColor, upChannel, towardWhite, coeff16_eq, clamp01_eq]

theorem fxDownColor_eq_towardBlack (st : Color) (cf : CfgRec) :
    fxDownColor st cf = towardBlack st ((cf.masterBrightnessFactor : Rat) / 16) := by
  simp only [fxDownColor, factor, down, mapColor, downChannel, towardBlack, coeff16_eq, clamp01_eq]

/-! ## The operations -/

/-- Settles O20: rule 1 is the first of the order, and the blend is `b3dColor_eq_weighted`. -/
theorem resB3dBlendsBy3dAlpha : Obligations.ResB3dBlendsBy3dAlpha := by
  refine ⟨fun lt lb cf hd hm2 => ?_, fun s inv st sb p3 hcur hst hsb hp3 => ?_⟩
  · rw [decode_resKey, hd, bottomInTarget2_of_meets hm2]
    rfl
  · rw [← b3dColor_eq_weighted, exec]
    exact onLatches_ok hcur (by simp [hst, hsb, hp3, setCc])

/-- Settles O21: rule 1 does not match, rule 2 does, and the blend is `bppColor_eq_weighted`. -/
theorem resBppBlendsByPixelCoefficient : Obligations.ResBppBlendsByPixelCoefficient := by
  refine ⟨fun lt lb cf hd ha hp hm2 => ?_, fun s inv st sb lt hcur hst hsb hlt => ?_⟩
  · rw [decode_resKey, hd, ha, hp, bottomInTarget2_of_meets hm2]
    rfl
  · rw [← bppColor_eq_weighted, exec]
    exact onLatches_ok hcur (by simp [hst, hsb, hlt, setCc])

/-- Settles O22: rule 1 does not match, rule 2 does, and the blend is `globalBlend_eq_weighted`. -/
theorem resBglBlendsByRecord : Obligations.ResBglBlendsByRecord := by
  refine ⟨fun lt lb cf hd ha hp hm2 => ?_, fun s inv st sb cf hcur hst hsb hcf => ?_⟩
  · rw [decode_resKey, hd, ha, hp, bottomInTarget2_of_meets hm2]
    rfl
  · rw [← globalBlend_eq_weighted]
    exact onLatches_ok hcur (blendGlobal_ok hst hsb hcf)

/-- Settles O23: rule 3 by `decode_resKey_of_not_meets` and `decode_resKey_of_meets`; both rows run `passTop`. -/
theorem resFxnonePassesTop : Obligations.ResFxnonePassesTop := by
  refine ⟨fun lt lb cf he hm2 => ?_, fun lt lb cf he hm2 hd ha => ?_, fun s inv st hcur hst => ?_⟩
  · rw [decode_resKey_of_not_meets lt hm2, he]
    rfl
  · rw [decode_resKey_of_meets hm2 hd ha, he]
    rfl
  · have hpass := onLatches_ok hcur (passTop_ok hst)
    exact ⟨hpass, hpass⟩

/-- Settles O24: rule 3 with both masks matching, and the blend is `globalBlend_eq_weighted`. -/
theorem resFxalphaBlendsByRecord : Obligations.ResFxalphaBlendsByRecord := by
  refine ⟨fun lt lb cf he hm1 hm2 hd ha => ?_, fun s inv st sb cf hcur hst hsb hcf => ?_⟩
  · rw [decode_resKey_of_meets hm2 hd ha, topInTarget1_of_meets hm1, he]
    rfl
  · rw [← globalBlend_eq_weighted]
    exact onLatches_ok hcur (blendGlobal_ok hst hsb hcf)

/-- Settles O25: rule 3 with a mask that does not match; both rows run `passTop`. -/
theorem resFxapassPassesTop : Obligations.ResFxapassPassesTop := by
  refine ⟨fun lt lb cf he hm2 => ?_, fun lt lb cf he hm2 hm1 hd ha => ?_, fun s inv st hcur hst => ?_⟩
  · rw [decode_resKey_of_not_meets lt hm2, he]
    rfl
  · rw [decode_resKey_of_meets hm2 hd ha, topInTarget1_of_not_meets hm1, he]
    rfl
  · have hpass := onLatches_ok hcur (passTop_ok hst)
    exact ⟨hpass, hpass⟩

/-- Settles O26: rule 3, whose rows for this effect do not look at the top's mask; both run `brightenTop`. -/
theorem resFxupBrightens : Obligations.ResFxupBrightens := by
  refine ⟨fun lt lb cf he hm2 => ?_, fun lt lb cf he hm2 hd ha => ?_, fun s inv st cf hcur hst hcf => ?_⟩
  · rw [decode_resKey_of_not_meets lt hm2, he]
    rfl
  · rw [decode_resKey_of_meets hm2 hd ha, he]
    rfl
  · have hup := onLatches_ok hcur (brightenTop_ok hst hcf)
    rw [← fxUpColor_eq_towardWhite]
    exact ⟨hup, hup⟩

/-- Settles O27: rule 3, whose rows for this effect do not look at the top's mask; both run `darkenTop`. -/
theorem resFxdownDarkens : Obligations.ResFxdownDarkens := by
  refine ⟨fun lt lb cf he hm2 => ?_, fun lt lb cf he hm2 hd ha => ?_, fun s inv st cf hcur hst hcf => ?_⟩
  · rw [decode_resKey_of_not_meets lt hm2, he]
    rfl
  · rw [decode_resKey_of_meets hm2 hd ha, he]
    rfl
  · have hdown := onLatches_ok hcur (darkenTop_ok hst hcf)
    rw [← fxDownColor_eq_towardBlack]
    exact ⟨hdown, hdown⟩

/-! ## Convex blends -/

theorem inUnit_clamp01 (u v w : Rat) : inUnit ⟨clamp01 u, clamp01 v, clamp01 w⟩ :=
  ⟨clamp01_nonneg _, clamp01_le_one _, clamp01_nonneg _, clamp01_le_one _, clamp01_nonneg _, clamp01_le_one _⟩

theorem inUnit_blend (a b : Color) (cA cB : Rat) : inUnit (blend a b cA cB) := inUnit_clamp01 _ _ _

/-- A convex sum of two channels stays in [0, 1], so the clamp does not act on it (R104, R105). -/
theorem blendChannel_convex {a b cA cB : Rat} (ha : 0 ≤ a ∧ a ≤ 1) (hb : 0 ≤ b ∧ b ≤ 1) (hA : 0 ≤ cA) (hB : 0 ≤ cB)
    (hsum : cA + cB = 1) : blendChannel a b cA cB = a * cA + b * cB := by
  have hmem : cA • a + cB • b ∈ Set.Icc (0 : Rat) 1 := convex_Icc 0 1 ha hb hA hB hsum
  rw [smul_eq_mul, smul_eq_mul, mul_comm cA, mul_comm cB] at hmem
  exact clamp01_of_mem hmem.1 hmem.2

theorem blend_convex {a b : Color} {cA cB : Rat} (ha : inUnit a) (hb : inUnit b) (hA : 0 ≤ cA) (hB : 0 ≤ cB) (hsum : cA + cB = 1) :
    blend a b cA cB = { c0 := a.c0 * cA + b.c0 * cB, c1 := a.c1 * cA + b.c1 * cB, c2 := a.c2 * cA + b.c2 * cB } := by
  obtain ⟨ha0, ha0', ha1, ha1', ha2, ha2'⟩ := ha
  obtain ⟨hb0, hb0', hb1, hb1', hb2, hb2'⟩ := hb
  rw [blend, blendChannel_convex ⟨ha0, ha0'⟩ ⟨hb0, hb0'⟩ hA hB hsum, blendChannel_convex ⟨ha1, ha1'⟩ ⟨hb1, hb1'⟩ hA hB hsum,
    blendChannel_convex ⟨ha2, ha2'⟩ ⟨hb2, hb2'⟩ hA hB hsum]

/-- Settles O29: each of the four blends is convex (`blend_convex`). -/
theorem convexBlendNeverClamps : Obligations.ConvexBlendNeverClamps := by
  intro a b c ha hb hc0 hc1
  refine ⟨blend_convex ha hb hc0 (sub_nonneg.mpr hc1) (add_sub_cancel c 1), inUnit_blend _ _ _ _, ?_, ?_, ?_⟩
  · rw [blend_convex ha hb zero_le_one le_rfl (add_zero 1)]
    simp only [mul_one, mul_zero, add_zero]
  · rw [blend_convex ha hb le_rfl zero_le_one (zero_add 1)]
    simp only [mul_one, mul_zero, zero_add]
  · rw [blend_convex ha hb one_half_pos.le one_half_pos.le (add_halves 1)]
    simp only [mul_one_div, add_div]

/-! ## The two brightness functions -/

section
variable {c f : Rat}

/-- Below factor 1 a channel is moved up by a part of what it lacks to 1 (R112). -/
theorem upChannel_of_le_one (hc0 : 0 ≤ c) (hc1 : c ≤ 1) (hf0 : 0 ≤ f) (hf1 : f ≤ 1) :
    upChannel f c = c + (1 - c) * f ∧ c ≤ upChannel f c ∧ upChannel f c ≤ 1 := by
  have hstep : 0 ≤ (1 - c) * f := mul_nonneg (sub_nonneg.mpr hc1) hf0
  have hpart : (1 - c) * f ≤ 1 - c := mul_le_of_le_one_right (sub_nonneg.mpr hc1) hf1
  have hup : upChannel f c = c + (1 - c) * f := clamp01_of_mem (by linarith) (by linarith)
  exact ⟨hup, by linarith, by linarith⟩

/-- Below factor 1 a channel is moved down by a part of itself (R112). -/
theorem downChannel_of_le_one (hc0 : 0 ≤ c) (hc1 : c ≤ 1) (hf0 : 0 ≤ f) (hf1 : f ≤ 1) :
    downChannel f c = c - c * f ∧ 0 ≤ downChannel f c ∧ downChannel f c ≤ c := by
  have hstep : 0 ≤ c * f := mul_nonneg hc0 hf0
  have hpart : c * f ≤ c := mul_le_of_le_one_right hc0 hf1
  have hdown : downChannel f c = c - c * f := clamp01_of_mem (by linarith) (by linarith)
  exact ⟨hdown, by linarith, by linarith⟩

theorem upChannel_of_one_le (hc1 : c ≤ 1) (hf : 1 ≤ f) : upChannel f c = 1 := by
  have hpart : 1 - c ≤ (1 - c) * f := le_mul_of_one_le_right (sub_nonneg.mpr hc1) hf
  exact clamp01_of_one_le (by linarith)

theorem downChannel_of_one_le (hc0 : 0 ≤ c) (hf : 1 ≤ f) : downChannel f c = 0 :=
  clamp01_of_nonpos (sub_nonpos.mpr (le_mul_of_one_le_right hc0 hf))

end

theorem one_le_coeff16 {n : Nat} (hn : 16 ≤ n) : 1 ≤ coeff16 n := by
  rw [coeff16_eq, one_le_div (by norm_num)]
  exact_mod_cast hn

/-- Settles O28: a factor field of 16 or more is a factor of 1 or more (`one_le_coeff16`), where both functions are constant. -/
theorem brightnessSaturatesAt16 : Obligations.BrightnessSaturatesAt16 := by
  intro c f hc0 hc1 hf0
  refine ⟨fun hf1 => ?_, fun hf => ⟨upChannel_of_one_le hc1 hf, downChannel_of_one_le hc0 hf⟩, fun n hn => ?_⟩
  · obtain ⟨hup, hup0, hup1⟩ := upChannel_of_le_one hc0 hc1 hf0 hf1
    exact ⟨hup, hup0, hup1, downChannel_of_le_one hc0 hc1 hf0 hf1⟩
  · have hn1 := one_le_coeff16 hn
    have h16 := one_le_coeff16 (le_refl 16)
    rw [upChannel_of_one_le hc1 hn1, upChannel_of_one_le hc1 h16, downChannel_of_one_le hc0 hn1, downChannel_of_one_le hc0 h16]
    exact ⟨rfl, rfl⟩

/-! ## Factors of 16 or more in the whole pipeline -/

theorem inUnit_over63 (c : RawColor) : inUnit (over63 c) := by
  obtain ⟨hr0, hr1⟩ := norm6_mem c.r
  obtain ⟨hg0, hg1⟩ := norm6_mem c.g
  obtain ⟨hb0, hb1⟩ := norm6_mem c.b
  rw [← norm6c_eq_over63]
  exact ⟨hr0, hr1, hg0, hg1, hb0, hb1⟩

theorem inUnit_substituteTop (lt lb : LayerPixel) (p3 : Pixel3D) : inUnit (substituteTop lt lb p3) := by
  obtain ⟨c, hc⟩ := exists_substituteTop_eq_over63 lt lb p3
  rw [hc]
  exact inUnit_over63 c

theorem inUnit_up (c : Color) (f : Rat) : inUnit (up c f) := inUnit_clamp01 _ _ _

theorem inUnit_down (c : Color) (f : Rat) : inUnit (down c f) := inUnit_clamp01 _ _ _

/-- Every rule of the resolver clamps its colour or passes the top's (R103 to R111). -/
theorem inUnit_resolve {st : Color} (sb : Color) (lt lb : LayerPixel) (p3 : Pixel3D) (cf : CfgRec) (hst : inUnit st) :
    inUnit (resolve st sb lt lb p3 cf) := by
  unfold resolve
  split
  · exact inUnit_blend _ _ _ _
  split
  · split
    · exact inUnit_blend _ _ _ _
    · exact inUnit_blend _ _ _ _
  cases cf.effectSelect with
  | none => exact hst
  | alphaBlend =>
    dsimp only
    split
    · exact inUnit_blend _ _ _ _
    · exact hst
  | brightnessUp => exact inUnit_up _ _
  | brightnessDown => exact inUnit_down _ _

theorem up_of_one_le {c : Color} {f : Rat} (hc : inUnit c) (hf : 1 ≤ f) : up c f = ⟨1, 1, 1⟩ := by
  obtain ⟨-, h0, -, h1, -, h2⟩ := hc
  rw [up, mapColor, upChannel_of_one_le h0 hf, upChannel_of_one_le h1 hf, upChannel_of_one_le h2 hf]

theorem down_of_one_le {c : Color} {f : Rat} (hc : inUnit c) (hf : 1 ≤ f) : down c f = black := by
  obtain ⟨h0, -, h1, -, h2, -⟩ := hc
  rw [down, mapColor, downChannel_of_one_le h0 hf, downChannel_of_one_le h1 hf, downChannel_of_one_le h2 hf, black]

section
variable {cf : CfgRec} (hn : 16 ≤ cf.masterBrightnessFactor)
include hn

theorem up_factor_saturates {c : Color} (hc : inUnit c) :
    up c (factor cf) = up c (factor { cf with masterBrightnessFactor := 16 }) :=
  (up_of_one_le hc (one_le_coeff16 hn)).trans (up_of_one_le hc (one_le_coeff16 (le_refl 16))).symm

theorem down_factor_saturates {c : Color} (hc : inUnit c) :
    down c (factor cf) = down c (factor { cf with masterBrightnessFactor := 16 }) :=
  (down_of_one_le hc (one_le_coeff16 hn)).trans (down_of_one_le hc (one_le_coeff16 (le_refl 16))).symm

theorem resolve_factor_saturates {st : Color} (sb : Color) (lt lb : LayerPixel) (p3 : Pixel3D) (hst : inUnit st) :
    resolve st sb lt lb p3 cf = resolve st sb lt lb p3 { cf with masterBrightnessFactor := 16 } := by
  unfold resolve fxUpColor fxDownColor
  rw [up_factor_saturates hn hst, down_factor_saturates hn hst]
  rfl

theorem masterBrightness_factor_saturates {cc : Color} (hcc : inUnit cc) :
    masterBrightness cc cf = masterBrightness cc { cf with masterBrightnessFactor := 16 } := by
  unfold masterBrightness mbUpEl mbDownEl
  rw [up_factor_saturates hn hcc, down_factor_saturates hn hcc]

end

/-- Settles O37: the resolver and the master brightness both get a colour in [0, 1], on which a factor of 1 or more gives white or
black. -/
theorem factorAbove16ActsAs16 : Obligations.FactorAbove16ActsAs16 := by
  intro L wt wb w3 cf hn
  have hst := inUnit_substituteTop (decodeLayer L wt) (decodeLayer L wb) (decodeP3d w3)
  rw [pixel_eq_composite, pixel_eq_composite, composite, composite, ← resolve_factor_saturates hn _ _ _ _ hst]
  exact masterBrightness_factor_saturates hn (inUnit_resolve _ _ _ _ _ hst)

end Sys2Proof.Machine

/-! PROOFS. The brightness post-processor (R120 to R124): the operation that the mode selects and the element it writes, then the
post-processor at the end of the whole pipeline. -/

namespace Sys2Proof.Machine

/-! ## The three operations -/

theorem decode_mbKey_of_mode {cf : CfgRec} {mode : MasterMode} (h : cf.masterBrightnessMode = mode) :
    decode .mbkey (mbKey cf) = .ok (brightnessInstr mode) :=
  h ▸ decode_mbKey cf

/-- An operation that reads two latches completes when an invocation is current and both latches of it hold values. -/
theorem onLatches_operands {α β : Type} {n m : LatchName} {latch : Latches → Option α} {latch' : Latches → Option β}
    {put : α → β → Latches → Latches} {s : State} {inv : Invocation} {v : α} {w : β} (hcur : s.cur = some inv)
    (hv : latch inv.latches = some v) (hw : latch' inv.latches = some w) :
    onLatches (fun l => operand n (latch l) fun v => operand m (latch' l) fun w => .ok (put v w l)) s
      = .next (withCur s inv (put v w inv.latches)) :=
  onLatches_ok hcur (by rw [hv, operand_some, hw, operand_some])

/-- MB.UP moves a colour as RES.FXUP does (R112). -/
theorem mbUpEl_eq_towardWhite (cc : Color) (cf : CfgRec) :
    mbUpEl cc cf = opaqueEl (towardWhite cc ((cf.masterBrightnessFactor : Rat) / 16)) :=
  congrArg opaqueEl (fxUpColor_eq_towardWhite cc cf)

/-- MB.DOWN moves a colour as RES.FXDOWN does (R112). -/
theorem mbDownEl_eq_towardBlack (cc : Color) (cf : CfgRec) :
    mbDownEl cc cf = opaqueEl (towardBlack cc ((cf.masterBrightnessFactor : Rat) / 16)) :=
  congrArg opaqueEl (fxDownColor_eq_towardBlack cc cf)

/-- Settles O30: the one operand is CC, so no record is read, and the element is its three channels as they are. -/
theorem mbNoneCopies : Obligations.MbNoneCopies :=
  ⟨fun _ => decode_mbKey_of_mode, fun _ _ _ hcur hcc => onLatches_operand hcur hcc⟩

/-- Settles O31: the operands are CC and CF, and the element is `mbUpEl_eq_towardWhite`. -/
theorem mbUpBrightens : Obligations.MbUpBrightens := by
  refine ⟨fun _ => decode_mbKey_of_mode, fun s inv cc cf hcur hcc hcf => ?_⟩
  have hrun : exec .mbUp s = .next (withCur s inv (setOc (mbUpEl cc cf) inv.latches)) := onLatches_operands hcur hcc hcf
  rwa [mbUpEl_eq_towardWhite] at hrun

/-- Settles O32: the operands are CC and CF, and the element is `mbDownEl_eq_towardBlack`. -/
theorem mbDownDarkens : Obligations.MbDownDarkens := by
  refine ⟨fun _ => decode_mbKey_of_mode, fun s inv cc cf hcur hcc hcf => ?_⟩
  have hrun : exec .mbDown s = .next (withCur s inv (setOc (mbDownEl cc cf) inv.latches)) := onLatches_operands hcur hcc hcf
  rwa [mbDownEl_eq_towardBlack] at hrun

/-! ## The post-processor after the resolver -/

/-- Rules 1 and 2 need a flag of the top pixel; rule 3 blends by the record when both masks match (R103, R108). -/
theorem resolve_alphaBlend (st sb : Color) {lt lb : LayerPixel} (p3 : Pixel3D) {cf : CfgRec} (hd : lt.is3dSourced = false)
    (ha : lt.alphaBlendEnabled = false) (he : cf.effectSelect = .alphaBlend) (hm1 : meets lt.targetMask cf.target1Mask)
    (hm2 : meets lb.targetMask cf.target2Mask) : resolve st sb lt lb p3 cf = globalBlend st sb cf := by
  simp [resolve, hd, ha, he, topInTarget1_of_meets hm1, bottomInTarget2_of_meets hm2]

theorem coeff16_mem {n : Nat} (hn : n ≤ 16) : 0 ≤ coeff16 n ∧ coeff16 n ≤ 1 := by
  have hq : (n : Rat) ≤ 16 := by exact_mod_cast hn
  rw [coeff16_eq]
  exact ⟨by positivity, (div_le_one (by norm_num)).mpr hq⟩

/-- On a colour in [0, 1] a factor of at most 1 moves every channel up unclamped (R112). -/
theorem up_of_le_one {c : Color} {f : Rat} (hc : inUnit c) (hf : 0 ≤ f ∧ f ≤ 1) :
    up c f = { c0 := c.c0 + (1 - c.c0) * f, c1 := c.c1 + (1 - c.c1) * f, c2 := c.c2 + (1 - c.c2) * f } := by
  obtain ⟨h0, h0', h1, h1', h2, h2'⟩ := hc
  obtain ⟨hf0, hf1⟩ := hf
  rw [up, mapColor, (upChannel_of_le_one h0 h0' hf0 hf1).1, (upChannel_of_le_one h1 h1' hf0 hf1).1,
    (upChannel_of_le_one h2 h2' hf0 hf1).1]

/-- Settles O33: rule 3 gives the blend (`resolve_alphaBlend`), which is a colour in [0, 1], and on such a colour the clamp of `up`
does not act (`up_of_le_one`). -/
theorem alphaBlendThenMasterUpComposes : Obligations.AlphaBlendThenMasterUpComposes := by
  intro st sb lt lb p3 cf hd ha he hm1 hm2 hmode hn
  refine ⟨globalBlend st sb cf, globalBlend_eq_weighted st sb cf, ?_⟩
  have hblend : inUnit (globalBlend st sb cf) := inUnit_blend _ _ _ _
  rw [resolve_alphaBlend st sb p3 hd ha he hm1 hm2, masterBrightness, hmode]
  dsimp only
  rw [mbUpEl, factor, up_of_le_one hblend (coeff16_mem hn), coeff16_eq, opaqueEl]

/-- Every mode gives an opaque element, whose colour it copies or clamps (R121 to R123). -/
theorem exists_masterBrightness_eq_opaqueEl {cc : Color} (cf : CfgRec) (hcc : inUnit cc) :
    ∃ c, inUnit c ∧ masterBrightness cc cf = opaqueEl c := by
  unfold masterBrightness
  cases cf.masterBrightnessMode with
  | none => exact ⟨cc, hcc, rfl⟩
  | up => exact ⟨_, inUnit_up cc (factor cf), rfl⟩
  | down => exact ⟨_, inUnit_down cc (factor cf), rfl⟩

/-- Settles O36: the substitution gives a colour in [0, 1], the resolver keeps it there (`inUnit_resolve`), and so does each mode of
the post-processor. -/
theorem pixelOutputInRange : Obligations.PixelOutputInRange := by
  intro L wt wb w3 cf
  have hst := inUnit_substituteTop (decodeLayer L wt) (decodeLayer L wb) (decodeP3d w3)
  obtain ⟨c, ⟨hr0, hr1, hg0, hg1, hb0, hb1⟩, hout⟩ := exists_masterBrightness_eq_opaqueEl cf (inUnit_resolve _ _ _ _ cf hst)
  rw [pixel_eq_composite, composite, hout]
  exact ⟨hr0, hr1, hg0, hg1, hb0, hb1, rfl⟩

end Sys2Proof.Machine

/-! PROOFS. PIXEL and FRAME (R130 to R137): what PIXEL makes of its state, what holds along every run of the machine, and so what stands
in `OUT` at the end of a frame, whatever its schedule, and when a frame left to itself ends. -/

namespace Sys2Proof.Machine

/-! ## PIXEL -/

/-- While Run the end of a frame is a choice of the phase alone (R34). -/
theorem finishFrame_of_run {s : State} (hrun : s.phase = .run) :
    finishFrame s = { s with
      phase := if s.started.length = Config.pixels ∧ s.cur = none ∧ s.waiting = [] then .done else .run } := by
  simp only [finishFrame, hrun, true_and]
  split
  · rfl
  · rw [← hrun]

/-- Settles O39: PIXEL runs at its position (`execPixel_pos`), fetches the inputs that are held, and ends by the choice of the phase. -/
theorem pixelStoresPixelFunction : Obligations.PixelStoresPixelFunction := by
  intro s p f hrun hfree hf
  have hfinish := finishFrame_of_run (s := { markStarted p s with mem := storeAt s.mem p (pixelOf s.layout f) }) hrun
  exact (execPixel_pos p s).trans (pixelAt_next.mpr ⟨hrun, hfree, f, fetchAt_ok.mpr hf, hfinish.symm⟩)

/-! ## What holds along a run -/

/-- A run that completes begins with a step that does. -/
theorem run_succ_next {k : Nat} {s t : State} (h : Sys2Proof.core.run (k + 1) s = .next t) :
    ∃ u, step s = .next u ∧ Sys2Proof.core.run k u = .next t := by
  simp only [Host.Core.run] at h
  split at h
  next u hu => exact ⟨u, hu, h⟩
  next => cases h
  next => cases h

/-- What every step keeps holds at the end of every run. -/
theorem run_keeps {P : State → Prop} (hstep : ∀ s t, P s → step s = .next t → P t) {k : Nat} :
    ∀ {s t : State}, P s → Sys2Proof.core.run k s = .next t → P t := by
  induction k with
  | zero =>
    intro s t hs h
    cases h
    exact hs
  | succ k ih =>
    intro s t hs h
    obtain ⟨u, hu, hrest⟩ := run_succ_next h
    exact ih (hstep s u hs hu) hrest

/-- At Done every position has run and no invocation is in flight, so each element of `OUT` is `pixel` of its inputs (R134, R135). -/
theorem FrameInv.outAt_of_done {t : State} (h : FrameInv t) (hdone : t.phase = .done) (p : Pos) :
    ∃ f, inputsAt t.mem p f ∧ outAt t.mem p = some (pixelOf t.layout f) := by
  have hflight : inFlight t = [] := inFlight_eq_nil.mpr (h.noInvocation (by rw [hdone]; decide))
  exact h.stored (by rw [hdone]; decide) p (h.doneComplete hdone p) (by simp [hflight])

/-- Settles O52: the invariant holds along the run (`stepKeepsFrameInv`), and at Done it gives every element of `OUT`. -/
theorem doneOutputIsPixelFunction : Obligations.DoneOutputIsPixelFunction := fun _ _ _ hs hrun hdone =>
  (run_keeps stepKeepsFrameInv hs hrun).outAt_of_done hdone

/-! ## The moves that are left -/

/-- A line of an invocation takes no move off the list. -/
theorem selectLine_moves {s t : State} (h : runSelection (selectLine s) = .next t) : t.moves = s.moves := by
  rcases selectLine_cases h with hfetch | hstore | ⟨inv, k, w, i, -, hline, hi, hexec⟩
  · obtain ⟨inv, f, -, -, rfl⟩ := fetchCur_next.mp hfetch
    rfl
  · obtain ⟨inv, v, -, -, rfl⟩ := storeCur_next.mp hstore
    rw [finishFrame_moves]
  · obtain ⟨f, -, hstage⟩ := exec_stage (latchWritten_of_due (due_of_nextLine hline) hi) s
    obtain ⟨inv, l, -, -, rfl⟩ := onLatches_next.mp (hstage.symm.trans hexec)
    rfl

theorem hostWrite_moves {f : Memory → Memory} {s t : State} (h : hostWrite f s = .next t) : t.moves = s.moves := by
  obtain ⟨-, rfl⟩ := hostWrite_next.mp h
  rfl

theorem execFrame_moves {n : Nat} {s t : State} (h : execFrame n s = .next t) : t.moves = s.moves := by
  obtain ⟨screen, -, -, hpixels⟩ := execFrame_started h
  exact (pixelsFrom_keeps hpixels).moves

/-- A move takes no other move off the list. -/
theorem selectMove_moves {m : Move} {s t : State} (h : runSelection (selectMove m s) = .next t) : t.moves = s.moves := by
  cases m
  case writeTop | writeBot | writeG3d | writeCfg => exact hostWrite_moves h
  case writeCfgCodes =>
    obtain ⟨rec, -, -, rfl⟩ := writeCfgCodes_next.mp h
    rfl
  case frameStart =>
    obtain ⟨-, -, rfl⟩ := frameStart_next.mp h
    rfl
  case frameAck =>
    obtain ⟨-, rfl⟩ := frameAck_next.mp h
    rfl
  case readOut =>
    obtain ⟨-, v, -, rfl⟩ := presentRead_next.mp h
    rfl
  case compositeFrame => exact execFrame_moves h
  case runPixel p => exact (pixelAt_keeps ((execPixel_pos p s).symm.trans h)).moves
  case beginPixel =>
    obtain ⟨-, -, rfl⟩ := beginAt_next.mp h
    rfl
  case advance =>
    simp only [selectMove] at h
    split at h
    next => cases h
    next v hv =>
      obtain ⟨inv, -, -, rfl⟩ := selectAt_some hv
      exact (selectLine_moves h).trans rfl

/-- What the machine does by itself takes no move off the list. -/
theorem selectOwn_moves {s t : State} (h : runSelection (selectOwn s) = .next t) : t.moves = s.moves := by
  unfold selectOwn at h
  split at h
  next => cases h; rfl
  next => cases h; rfl
  next =>
    split at h
    next => exact selectLine_moves h
    next =>
      split at h
      next inv rest _ => exact selectLine_moves (s := { s with cur := some inv, waiting := rest }) h
      next =>
        split at h
        next p _ => exact (pixelAt_keeps ((execPixel_pos p s).symm.trans h)).moves
        next => cases h

/-- A step takes the next move off the list, if there is one (log 9). -/
theorem step_moves {s t : State} (h : step s = .next t) : t.moves = s.moves.tail := by
  unfold step select at h
  split at h
  next m ms hm => rw [selectMove_moves h, hm, List.tail_cons]
  next hm => rw [selectOwn_moves h, hm, List.tail_nil]

/-! ## One frame, whatever its schedule -/

/-- `t` is in the frame of `s`: it has the invariant, the layout and the inputs are those of `s`, and no acknowledgement is to come, so
no other frame can begin. -/
structure InFrameOf (s t : State) : Prop where
  inv : FrameInv t
  notIdle : t.phase ≠ .idle
  layout : t.layout = s.layout
  inputs : sameInputs t.mem s.mem
  noAck : ∀ m ∈ t.moves, m.isAck = false

/-- A step outside Idle that is no acknowledgement does not lead to Idle (R34). -/
theorem step_notIdle {s t : State} (h : step s = .next t) (hs : s.phase ≠ .idle) (hack : ∀ m ∈ s.moves, m.isAck = false) :
    t.phase ≠ .idle := by
  intro hidle
  have hne : t.phase ≠ s.phase := by rw [hidle]; exact hs.symm
  rcases phaseChangesOnlyByHandshake s t h hne with ⟨hs', -⟩ | ⟨-, ht, -⟩ | ⟨-, -, ms, hms⟩ | ⟨hs', -⟩
  · exact hs hs'
  · rw [hidle] at ht
    cases ht
  · cases hack .frameAck (by rw [hms]; exact List.mem_cons_self)
  · exact hs hs'

/-- A step stays in the frame: the inputs are frozen until the acknowledgement (R48). -/
theorem InFrameOf.of_step {s t u : State} (h : InFrameOf s t) (hstep : step t = .next u) : InFrameOf s u where
  inv := stepKeepsFrameInv t u h.inv hstep
  notIdle := step_notIdle hstep h.notIdle h.noAck
  layout := (step_layout hstep).trans h.layout
  inputs := sameInputs_trans (buffersFrozenOutsideTheirPhase.1 t u hstep h.notIdle) h.inputs
  noAck m hm := h.noAck m (List.mem_of_mem_tail (step_moves hstep ▸ hm))

theorem inFrameOf_of_run {s t : State} {k : Nat} (hs : FrameInv s) (hidle : s.phase ≠ .idle) (hack : ∀ m ∈ s.moves, m.isAck = false)
    (h : Sys2Proof.core.run k s = .next t) : InFrameOf s t :=
  run_keeps (fun _ _ hu hstep => hu.of_step hstep) ⟨hs, hidle, rfl, ⟨rfl, rfl, rfl, rfl⟩, hack⟩ h

theorem sameInputs_symm {m n : Memory} (h : sameInputs m n) : sameInputs n m := by
  obtain ⟨htop, hbot, hg3d, hcfg⟩ := h
  exact ⟨htop.symm, hbot.symm, hg3d.symm, hcfg.symm⟩

theorem inputsAt_of_same {m n : Memory} {p : Pos} {f : Fetched} (h : sameInputs m n) (hf : inputsAt n p f) : inputsAt m p f := by
  obtain ⟨htop, hbot, hg3d, hcfg⟩ := h
  rwa [inputsAt, htop, hbot, hg3d, hcfg]

theorem outAt_eq (m : Memory) (p : Pos) : outAt m p = readBuf m.out (posIndex p) := congrArg (readBuf m.out) (outIndex_eq p)

/-- Canonical output buffers that agree at every position are the same. -/
theorem out_ext {m n : Memory} (hm : m.wf) (hn : n.wf) (h : ∀ p, outAt m p = outAt n p) : m.out = n.out := by
  obtain ⟨-, -, -, -, hm⟩ := hm
  obtain ⟨-, -, -, -, hn⟩ := hn
  refine bufWf_ext hm hn fun i => ?_
  by_cases hi : i < Config.pixels
  · obtain ⟨p, -, rfl⟩ := posOfIndex_isSome hi
    rw [← outAt_eq, ← outAt_eq, h p]
  · have hnone : ∀ {b : Buf OutEl}, bufWf Config.pixels b → readBuf b i = none := fun hb =>
      Option.eq_none_iff_forall_ne_some.mpr fun _ hv => hi (readBuf_lt hb hv)
    rw [hnone hm, hnone hn]

/-- The inputs and the layout determine `OUT` at Done (R135). -/
theorem out_eq_of_done {t t' : State} (h : FrameInv t) (h' : FrameInv t') (hdone : t.phase = .done) (hdone' : t'.phase = .done)
    (hlayout : t.layout = t'.layout) (hinputs : sameInputs t.mem t'.mem) : t.mem.out = t'.mem.out := by
  refine out_ext h.memory h'.memory fun p => ?_
  obtain ⟨f, hf, hout⟩ := h.outAt_of_done hdone p
  obtain ⟨f', hf', hout'⟩ := h'.outAt_of_done hdone' p
  obtain rfl := inputsAt_unique hf (inputsAt_of_same hinputs hf')
  rw [hout, hout', hlayout]

/-- Settles O53: each run stays in its frame (`inFrameOf_of_run`), so both end with the same inputs and layout, which determine `OUT`
(`out_eq_of_done`). -/
theorem anyScheduleSameOutput : Obligations.AnyScheduleSameOutput := by
  intro s s' t t' k k' hs hs' hidle hidle' hlayout hinputs hack hack' hrun hrun' hdone hdone'
  have ht := inFrameOf_of_run hs hidle hack hrun
  have ht' := inFrameOf_of_run hs' hidle' hack' hrun'
  exact out_eq_of_done ht.inv ht'.inv hdone hdone' ((ht.layout.trans hlayout).trans ht'.layout.symm)
    (sameInputs_trans (sameInputs_trans ht.inputs hinputs) (sameInputs_symm ht'.inputs))

/-! ## A frame left to itself -/

/-- A canonical buffer of `n` elements lists at most `n`. -/
theorem length_le_of_bufWf {α : Type} {n : Nat} {b : Buf α} (hb : bufWf n b) : b.length ≤ n := by
  have hnodup : (b.map Prod.fst).Nodup := List.pairwise_map.mpr (hb.1.imp Nat.ne_of_lt)
  have hsub : b.map Prod.fst ⊆ List.range n := fun j hj => by
    obtain ⟨e, he, rfl⟩ := List.mem_map.mp hj
    exact List.mem_range.mpr (hb.2 e he)
  simpa using (List.subperm_of_subset hnodup hsub).length_le

/-- A set that holds every index below `n` lists at least `n`. -/
theorem le_length_of_held {n : Nat} {b : Buf Unit} (h : ∀ i, i < n → readBuf b i = some ()) : n ≤ b.length := by
  have hsub : List.range n ⊆ b.map Prod.fst := fun i hi =>
    List.mem_map.mpr ⟨(i, ()), mem_of_readBuf (h i (List.mem_range.mp hi)), rfl⟩
  simpa using (List.subperm_of_subset List.nodup_range hsub).length_le

/-- While not all positions have begun, the lowest free index is that of a position, which is free. -/
theorem exists_lowestFree {b : Buf Unit} (hb : bufWf Config.pixels b) (hlen : b.length < Config.pixels) :
    ∃ p, lowestFree 0 b = posIndex p ∧ readBuf b (posIndex p) = none := by
  obtain ⟨-, hfree, hheld⟩ := lowestFree_spec (n := 0) hb.1 fun _ _ => Nat.zero_le _
  have hlt : lowestFree 0 b < Config.pixels := by
    by_contra hge
    have hall := le_length_of_held (n := Config.pixels) fun i hi => hheld i i.zero_le (hi.trans_le (not_lt.mp hge))
    omega
  obtain ⟨p, -, hp⟩ := posOfIndex_isSome hlt
  exact ⟨p, hp.symm, hp ▸ hfree⟩

/-- A frame in progress that is left to itself: no move is pending, no invocation is in flight, and every input is held. -/
structure LeftToItself (s : State) : Prop where
  begunForm : bufWf Config.pixels s.started
  run : s.phase = .run
  moves : s.moves = []
  cur : s.cur = none
  waiting : s.waiting = []
  inputs : inputsComplete s.mem

/-- A step of a frame left to itself runs one more position: the last one makes the phase Done, and after any other the frame is
still left to itself (D14, R34). -/
theorem LeftToItself.step_completes {s : State} (h : LeftToItself s) (hlen : s.started.length < Config.pixels) :
    ∃ u, step s = .next u ∧ u.started.length = s.started.length + 1
      ∧ if s.started.length + 1 = Config.pixels then u.phase = .done else LeftToItself u := by
  obtain ⟨p, hlow, hfree⟩ := exists_lowestFree h.begunForm hlen
  obtain ⟨f, hf⟩ := h.inputs p
  obtain ⟨u, hu, hstarted, hsame, hcur, hwait, hmoves, hphase⟩ := pixelAt_completes h.run hfree hf
  refine ⟨u, (step_ownPixel h.run h.moves h.cur h.waiting hlow).trans hu, by rw [hstarted, length_writeBuf_free () hfree], ?_⟩
  split
  next hlast => rw [hphase, if_pos ⟨hlast, h.cur, h.waiting⟩]
  next hmore =>
    exact
      { begunForm := hstarted ▸ writeBuf_wf () h.begunForm (posIndex_lt p)
        run := by rw [hphase, if_neg fun hend => hmore hend.1]
        moves := hmoves.trans h.moves
        cur := hcur.trans h.cur
        waiting := hwait.trans h.waiting
        inputs := inputsComplete_of_same hsame h.inputs }

/-- A frame left to itself with `k + 1` positions to go is in Run for `k` steps and Done after one more. -/
theorem LeftToItself.run_left {k : Nat} : ∀ {s : State}, LeftToItself s → s.started.length + (k + 1) = Config.pixels →
    (∀ j, j < k + 1 → ∃ u, Sys2Proof.core.run j s = .next u ∧ u.phase = .run)
      ∧ ∃ t, Sys2Proof.core.run (k + 1) s = .next t ∧ t.phase = .done := by
  induction k with
  | zero =>
    intro s h hlen
    obtain ⟨u, hstep, -, hend⟩ := h.step_completes (by omega)
    rw [if_pos hlen] at hend
    refine ⟨fun j hj => ?_, u, run_succ hstep 0, hend⟩
    obtain rfl : j = 0 := by omega
    exact ⟨s, rfl, h.run⟩
  | succ k ih =>
    intro s h hlen
    obtain ⟨u, hstep, hstarted, hmore⟩ := h.step_completes (by omega)
    rw [if_neg (by omega)] at hmore
    obtain ⟨hbefore, hafter⟩ := ih hmore (by omega)
    simp only [run_succ hstep]
    refine ⟨fun j hj => ?_, hafter⟩
    cases j with
    | zero => exact ⟨s, rfl, h.run⟩
    | succ j =>
      rw [run_succ hstep]
      exact hbefore j (by omega)

/-- Settles O48: the invariant leaves at least one position to go, and from there each step runs one (`LeftToItself.run_left`). -/
theorem frameEndsAfterItsPixels : Obligations.FrameEndsAfterItsPixels := by
  intro s hs hrun hmoves hflight hinputs
  obtain ⟨hcur, hwait⟩ := inFlight_eq_nil.mp hflight
  have hle : s.started.length ≤ 98304 := length_le_of_bufWf hs.begunForm
  have hne : s.started.length ≠ 98304 := fun hlen => hs.runUnfinished hrun ⟨hlen, hflight⟩
  obtain ⟨k, hk⟩ := Nat.exists_eq_succ_of_ne_zero (n := 98304 - s.started.length) (by omega)
  have hleft : s.started.length + (k + 1) = 98304 := by omega
  rw [hk]
  exact LeftToItself.run_left ⟨hs.begunForm, hrun, hmoves, hcur, hwait, hinputs⟩ hleft

end Sys2Proof.Machine

/-! PROOFS. The exceptions (R145, R146): what each move of the host is refused as where its duty is broken. -/

namespace Sys2Proof.Machine

/-- No input is written during Run (R145). -/
theorem hostWrite_of_run {s : State} (hrun : s.phase = .run) (f : Memory → Memory) :
    hostWrite f s = .refused .inputWrittenDuringRun := by
  simp only [hostWrite, hrun]

theorem writeCfgCodes_of_modeCode {c : CfgCodes} (hmode : c.masterBrightnessMode = 3) (screen : Screen) (row : Row) (s : State) :
    writeCfgCodes screen row c s = .refused .badModeCode := by
  have hnone : decodeCfg c = none := decodeCfg_eq_none.mpr ((MasterMode.ofCode_eq_none _).mpr hmode)
  simp only [writeCfgCodes, hnone]

/-- A packed record whose mode code names a mode is written as the record it decodes to (R66, R73). -/
theorem exists_writeCfgCodes_eq {c : CfgCodes} (hmode : c.masterBrightnessMode ≠ 3) (screen : Screen) (row : Row) (s : State) :
    ∃ rec, writeCfgCodes screen row c s = hostWrite (writeCfg screen row rec) s := by
  have hsome : decodeCfg c ≠ none := fun hnone => hmode ((MasterMode.ofCode_eq_none _).mp (decodeCfg_eq_none.mp hnone))
  obtain ⟨rec, hrec⟩ := Option.ne_none_iff_exists'.mp hsome
  exact ⟨rec, by simp only [writeCfgCodes, hrec]⟩

theorem frameStart_of_notIdle {s : State} (hidle : s.phase ≠ .idle) (screen : Screen) :
    frameStart screen s = .refused .startNotIdle := if_pos hidle

theorem presentRead_of_notDone {s : State} (hdone : s.phase ≠ .done) (y : Fin 384) (col : Col) :
    presentRead y col s = .refused .readBeforeDone := if_neg hdone

/-- Settles O56: the step makes the pending move, which tests the phase; FRAME is refused as the `frame_start` it begins with, and a
packed record is refused by its mode code or else written like any other. -/
theorem brokenDutiesRefused : Obligations.BrokenDutiesRefused := by
  intro s ms
  refine ⟨fun hrun => ?_, fun hidle screen => ⟨?_, ?_⟩, fun hdone y col => ?_, fun screen row c hmode => ?_⟩
  · have hwrite : ∀ f, hostWrite f { s with moves := ms } = .refused .inputWrittenDuringRun := hostWrite_of_run hrun
    refine ⟨fun p w => hwrite _, fun p w => hwrite _, fun row col w => hwrite _, fun screen row c => hwrite _,
      fun screen row c hmode => ?_⟩
    obtain ⟨rec, hrec⟩ := exists_writeCfgCodes_eq hmode screen row { s with moves := ms }
    exact hrec.trans (hwrite _)
  · exact frameStart_of_notIdle (s := { s with moves := ms }) hidle screen
  · exact execFrame_of_refused (frameStart_of_notIdle (s := { s with moves := ms }) hidle screen)
  · exact presentRead_of_notDone (s := { s with moves := ms }) hdone y col
  · exact writeCfgCodes_of_modeCode hmode screen row { s with moves := ms }

end Sys2Proof.Machine

/-! PROOFS. Reset (R160, R162): the state after it and the machine's invariant there. An element that holds no value (R161): PIXEL faults
by it, and no run of positions passes it. -/

namespace Sys2Proof.Machine

/-! ## Reset -/

/-- Settles O59: the fields of the reset state, whose five buffers are empty lists (`readBuf_nil`). -/
theorem resetHoldsNoValue : Obligations.ResetHoldsNoValue :=
  ⟨reset_phase, reset_layout, fun _ => ⟨readBuf_nil _, readBuf_nil _, readBuf_nil _, readBuf_nil _, readBuf_nil _⟩, reset_cur,
    reset_waiting, reset_screen3d⟩

theorem reset_withLayout_frameInv (L : Config.LayerLayout) : FrameInv { State.reset with layout := L } :=
  frameInv_of_idle reset_phase memoryReset_wf ⟨List.Pairwise.nil, fun e he => by cases he⟩ reset_cur reset_waiting reset_screen3d

/-- Settles O49: an idle machine with canonical buffers, no invocation and no argument has the invariant, whatever its layout
(`frameInv_of_idle`). -/
theorem resetHasFrameInv : Obligations.ResetHasFrameInv :=
  ⟨reset_withLayout_frameInv defaultLayout, reset_withLayout_frameInv⟩

/-! ## An input that holds no value -/

theorem memRead_error {α β : Type} {n : InputBuf} {b : Buf α} {i : Nat} {k : α → Except Fault β} {e : Fault} :
    memRead n b i k = .error e ↔
      (.inputHoldsNoValue n i = e ∧ readBuf b i = none) ∨ ∃ v, readBuf b i = some v ∧ k v = .error e := by
  unfold memRead
  cases readBuf b i <;> simp

/-- A fetch that faults names an element of its own position, one that holds no value (R44, R161). -/
theorem fetchAt_error {m : Memory} {p : Pos} {e : Fault} (h : fetchAt m p = .error e) :
    (.inputHoldsNoValue .top (posIndex p) = e ∧ readBuf m.top (posIndex p) = none)
      ∨ (.inputHoldsNoValue .bot (posIndex p) = e ∧ readBuf m.bot (posIndex p) = none)
      ∨ (.inputHoldsNoValue .g3d (g3dIndex p.row p.col) = e ∧ readBuf m.g3d (g3dIndex p.row p.col) = none)
      ∨ (.inputHoldsNoValue .cfg (cfgIndex p.screen p.row) = e ∧ readBuf m.cfg (cfgIndex p.screen p.row) = none) := by
  rcases memRead_error.mp h with htop | ⟨wt, -, h⟩
  · exact .inl htop
  rcases memRead_error.mp h with hbot | ⟨wb, -, h⟩
  · exact .inr (.inl hbot)
  rcases memRead_error.mp h with hg3d | ⟨w3, -, h⟩
  · exact .inr (.inr (.inl hg3d))
  rcases memRead_error.mp h with hcfg | ⟨cf, -, h⟩
  · exact .inr (.inr (.inr hcfg))
  · cases h

theorem exists_fetchAt_error {m : Memory} {p : Pos} (h : ¬ ∃ f, inputsAt m p f) : ∃ e, fetchAt m p = .error e := by
  cases hfetch : fetchAt m p with
  | error e => exact ⟨e, rfl⟩
  | ok f => exact absurd ⟨f, fetchAt_ok.mp hfetch⟩ h

/-- PIXEL, where it is enabled, faults as its fetch does. -/
theorem pixelAt_fault {p : Pos} {s : State} {e : Fault} (hrun : s.phase = .run) (hfree : readBuf s.started (posIndex p) = none)
    (he : fetchAt s.mem p = .error e) : pixelAt p s = .fault e := by
  simp only [pixelAt, if_pos (enabled_iff.mpr ⟨hrun, hfree⟩), he]

/-- A run of positions that completes found the inputs of each of them: PIXEL fetches them, and those before it keep the inputs. -/
theorem exists_inputsAt_of_pixelsFrom {p : Pos} {k : Nat} : ∀ {i : Nat} {s t : State}, pixelsFrom k i s = .next t →
    i ≤ posIndex p → posIndex p < i + k → ∃ f, inputsAt s.mem p f := by
  induction k with
  | zero =>
    intro i s t _ hle hlt
    omega
  | succ k ih =>
    intro i s t h hle hlt
    obtain ⟨q, u, hq, hpixel, hrest⟩ := pixelsFrom_succ_next h
    rcases Nat.eq_or_lt_of_le hle with heq | hlater
    · obtain rfl : q = p := posIndex_injective (hq.trans heq)
      obtain ⟨-, -, f, hf, -⟩ := pixelAt_next.mp hpixel
      exact ⟨f, fetchAt_ok.mp hf⟩
    · obtain ⟨f, hf⟩ := ih hrest hlater (by omega)
      exact ⟨f, inputsAt_of_same (sameInputs_symm (pixelAt_keeps hpixel).inputs) hf⟩

/-- Settles O41: PIXEL faults as its fetch does (`pixelAt_fault`), which names an element that holds no value (`fetchAt_error`); and
FRAME completes only as a run of every position, which finds the inputs of each. -/
theorem missingInputFaults : Obligations.MissingInputFaults := by
  refine ⟨fun s p hrun hfree hmissing => ?_, fun s screen p hmissing t h => hmissing ?_⟩
  · obtain ⟨e, he⟩ := exists_fetchAt_error hmissing
    have hfault : exec (.pixel p.screen.val p.row.val p.col.val) s = .fault e :=
      (execPixel_pos p s).trans (pixelAt_fault hrun hfree he)
    rcases fetchAt_error he with ⟨rfl, hnone⟩ | ⟨rfl, hnone⟩ | ⟨rfl, hnone⟩ | ⟨rfl, hnone⟩
    · exact ⟨_, .inl ⟨hfault, hnone⟩⟩
    · exact ⟨_, .inr (.inl ⟨hfault, hnone⟩)⟩
    · exact ⟨_, .inr (.inr (.inl ⟨hfault, hnone⟩))⟩
    · exact ⟨_, .inr (.inr (.inr ⟨hfault, hnone⟩))⟩
  · obtain ⟨screen3d, -, -, hpixels⟩ := execFrame_started h
    exact exists_inputsAt_of_pixelsFrom (s := startedFrame screen3d s) hpixels (Nat.zero_le _) (by simpa using posIndex_lt p)

end Sys2Proof.Machine
